-- ==== Sys2Proof/Word.lean ====
section
/-! DEFINITION. The words of the CJ-416: bytes of the line, counts, tick counts, loop masks and flag sets
(00_scope.md, Conventions), and the two index ranges every block uses. -/

namespace Sys2Proof

/-- One byte of a frame (00_scope.md, Byte order). -/
abbrev Byte := BitVec 8

/-- A count or a coefficient word: sixteen bits, read as a signed value with `BitVec.toInt`
(00_scope.md, Counts). -/
abbrev Count := BitVec 16

/-- A tick count, modulo 2^32 (R80; 00_scope.md, Tick arithmetic). -/
abbrev Tick := BitVec 32

/-- A stage memory word, a signed 32-bit value (R5). -/
abbrev MemWord := BitVec 32

/-- A loop mask: bit 0 stands for L0 and bit 15 for L15 (00_scope.md, Loop masks). -/
abbrev LoopMask := BitVec 16

/-- A subset of the five alarm flags, laid out as on the line: bit 0 SAT, bit 1 MISS, bit 2 STALE,
bit 3 ARITH, bit 4 FAULT (Message Formats 10.2; R118). -/
abbrev FlagSet := BitVec 5

/-- A loop number, L0 to L15 (R1). -/
abbrev LoopId := Fin 16

/-- A sample slot number, S0 to S31 (R64). -/
abbrev SlotId := Fin 32

/-- The levels standing on the strap pins BAUD1:0 (R152). -/
abbrev Straps := BitVec 2

end Sys2Proof
end

