-- ==== Sys2Proof/Syntax.lean ====
section
/-! DEFINITION. The commands: one constructor per row of spec/opcode_table.json.

A request row carries the request's TAG byte and its payload bytes as they stand in the frame (R153), so that
every length and every encoding the line can carry is a command. -/

namespace Sys2Proof

/-- The commands of the CJ-416. -/
inductive Instr where
  -- engine requests (Message Formats 10.2, 01h to 08h)
  | identify (tag : Byte) (payload : List Byte)
  | status (tag : Byte) (payload : List Byte)
  | configure (tag : Byte) (payload : List Byte)
  | ping (tag : Byte) (payload : List Byte)
  | enterSafe (tag : Byte) (payload : List Byte)
  | resume (tag : Byte) (payload : List Byte)
  | reset (tag : Byte) (payload : List Byte)
  | clearCause (tag : Byte) (payload : List Byte)
  -- loop requests (10h to 16h)
  | defineLoop (tag : Byte) (payload : List Byte)
  | armLoop (tag : Byte) (payload : List Byte)
  | holdLoop (tag : Byte) (payload : List Byte)
  | unholdLoop (tag : Byte) (payload : List Byte)
  | clearLoop (tag : Byte) (payload : List Byte)
  | readLoop (tag : Byte) (payload : List Byte)
  | presetLoop (tag : Byte) (payload : List Byte)
  -- coefficient requests (18h to 1Ah)
  | loadCoef (tag : Byte) (payload : List Byte)
  /-- COMMIT_COEF with the action byte APPLY: `maskField` is the payload ahead of the action byte (R56). -/
  | commitCoefApply (tag : Byte) (maskField : List Byte)
  /-- COMMIT_COEF with the action byte DISCARD: `maskField` is the payload ahead of the action byte (R56). -/
  | commitCoefDiscard (tag : Byte) (maskField : List Byte)
  | readCoef (tag : Byte) (payload : List Byte)
  -- sample requests (20h, 21h)
  | writeSamples (tag : Byte) (payload : List Byte)
  | readSamples (tag : Byte) (payload : List Byte)
  -- alarm requests (28h to 2Ah)
  | readAlarms (tag : Byte) (payload : List Byte)
  | clearAlarms (tag : Byte) (payload : List Byte)
  | maskAlarms (tag : Byte) (payload : List Byte)
  /-- A slotted frame of a kind the dispatcher does not carry out (R172). -/
  | unknownKindRequest (kind tag : Byte) (payload : List Byte)
  -- the line, frame by frame
  /-- A good frame of kind 40h (R158, R146). -/
  | reportAck (tag : Byte) (payload : List Byte)
  /-- A frame whose CRC agrees (R158). -/
  | goodFrame (kind tag : Byte) (payload : List Byte)
  | crcError
  | lengthError
  /-- A byte whose stop bit is sampled low; `data` holds its eight data bits (R157). -/
  | framingError (data : Byte)
  | gapTimerExpiry
  /-- BREAK: RXD has been low for 2 ms (R167). `straps` are the levels on BAUD1:0 at the event, read only
  where the break brings a COMMAND reset (R192). -/
  | lineBreak (straps : Straps)
  /-- RXD has been high for 10 character times (R194). -/
  | startUpHoldEnd
  -- resets
  | powerOnReset (straps : Straps)
  | pinReset (straps : Straps)
  /-- The event at which the reset ends; `rxdLow` says whether RXD stands low at it (R193, R167). -/
  | startUp (rxdLow : Bool)
  /-- The end of the frame on TXD (R161). `straps` and `rxdLow` are the pin levels at the event, read only
  where the frame end brings a COMMAND reset (R191, R193). -/
  | frameEnd (straps : Straps) (rxdLow : Bool)
  -- the engine's own events
  | tick
  | release (loop : LoopId)
  | stageCompletion
  | retryTimerExpiry
  | supervisionExpiry
  -- the line, byte by byte
  | byteReceived (data : Byte)
  | rxdReturnsHigh
  deriving DecidableEq, Repr

end Sys2Proof
end

