-- ==== Sys2Proof/Decode.lean ====
section
/-! DEFINITION. The command a word of spec/opcode_table.json spells. No row of the table gives bits (every
row's "fields" is empty and none has "fixed"), so no word spells a command. How the BYTES OF THE LINE spell a
request is in Machine/Operands.lean and Machine/Dispatcher.lean. -/

namespace Sys2Proof

/-- The command that the `nbits`-bit word `w` spells by the table's bits: none, since no row gives bits. -/
def decodeTableWord (_nbits _w : Nat) : Option Instr := none

end Sys2Proof
end

