-- ==== Sys2Proof/Machine/State.lean ====
section
/-! DEFINITION. The state of the CJ-416, block by block (00_scope.md, Functional overview), the reasons a step
can stop, and the state right after a full reset. Plain data throughout. -/

namespace Sys2Proof.Machine

/-! ## The loop table (01_the_loop_table.md) -/

/-- Why a HELD loop is held (R6). -/
inductive HoldReason where
  | host
  | safe
  deriving DecidableEq, Repr

/-- The six loop states; the hold reason is present only while the state is HELD (R6, R9). -/
inductive LoopState where
  | empty
  | idle
  | armed
  | active
  | held (reason : HoldReason)
  | faulted
  deriving DecidableEq, Repr

/-- The instance status of a loop (R6, R10); `noInstance` is the manual's NONE. -/
inductive InstanceStatus where
  | noInstance
  | due
  | running
  | suspended
  deriving DecidableEq, Repr

/-- The eight operations of a stage (R4). -/
inductive StageOp where
  | gain
  | sum
  | lpf
  | pid
  | div
  | rotate
  | atan
  | limit
  deriving DecidableEq, Repr

/-- A stage descriptor. The target byte is kept as received, since every op but GAIN accepts any value of it
(R4, R174). -/
structure StageDesc where
  op : StageOp
  target : Byte
  shift : Fin 16
  setpointFromB : Bool
  deriving DecidableEq, Repr

/-- Where one input of a loop comes from (R3). -/
inductive Binding where
  | zero
  | sample (slot : SlotId)
  | primary (loop : LoopId)
  | secondary (loop : LoopId)
  deriving DecidableEq, Repr

/-- What HOLD_LOOP does to the presented output (R2). -/
inductive HoldAction where
  | last
  | safe
  deriving DecidableEq, Repr

/-- What a release does when an input is stale (R2). -/
inductive StalePolicy where
  | use
  | skip
  | fault
  deriving DecidableEq, Repr

/-- Whether an ARITH mark faults the loop (R2); `proceed` is the manual's CONTINUE. -/
inductive ArithPolicy where
  | proceed
  | fault
  deriving DecidableEq, Repr

/-- Which completions produce OUTPUT reports (R2, R133); `silent` is the manual's NONE. The parameter n or d
stands in `Definition.reportParam`. -/
inductive ReportMode where
  | every
  | divide
  | change
  | silent
  deriving DecidableEq, Repr

/-- A loop's definition, as DEFINE_LOOP wrote it (R2). -/
structure Definition where
  priority : Fin 8
  period : BitVec 16
  offset : BitVec 16
  inputA : Binding
  inputB : Option Binding
  stages : List StageDesc
  outMin : Count
  outMax : Count
  safeValue : Count
  holdAction : HoldAction
  stalePolicy : StalePolicy
  maxAge : BitVec 16
  missLimit : BitVec 8
  arithPolicy : ArithPolicy
  reportMode : ReportMode
  reportParam : BitVec 16
  includeSecondary : Bool
  alarmMask : FlagSet
  deriving DecidableEq, Repr

/-- The four coefficient words of one stage (R52). -/
structure Coefs where
  c0 : Count
  c1 : Count
  c2 : Count
  c3 : Count
  deriving DecidableEq, Repr

/-- A coefficient bank: four stages of four words (R52). -/
abbrev Bank := Vector Coefs 4

/-- The memory words and the seeded flag of one stage (R5). -/
structure StageMem where
  word1 : MemWord
  word2 : MemWord
  word3 : MemWord
  seeded : Bool
  deriving DecidableEq, Repr

/-- The seven statistics of a loop, sixteen-bit counters that stop at 65 535 (R8). -/
structure Statistics where
  releasesTaken : BitVec 16
  completions : BitVec 16
  misses : BitVec 16
  skips : BitVec 16
  preemptions : BitVec 16
  saturations : BitVec 16
  outputsDropped : BitVec 16
  deriving DecidableEq, Repr

/-- The alarm record of a loop, owned by the alarm unit (R118). -/
structure AlarmRecord where
  latched : FlagSet
  mask : FlagSet
  owed : FlagSet
  deriving DecidableEq, Repr

/-- A loop entry (R1). -/
structure LoopEntry where
  definition : Option Definition
  activeBank : Bank
  pendingBank : Bank
  commitPending : Bool
  primary : Count
  secondary : Count
  mem : Vector StageMem 4
  state : LoopState
  status : InstanceStatus
  nextRelease : Option Tick
  missCount : BitVec 8
  outputValid : Bool
  safeSub : Bool
  lastReported : Option Count
  divideCounter : BitVec 8
  stats : Statistics
  alarms : AlarmRecord
  deriving DecidableEq, Repr

/-! ## The sample store (04_the_sample_store_and_input_binding.md) -/

/-- A sample slot (R64). -/
structure SampleSlot where
  value : Count
  stamp : Tick
  written : Bool
  deriving DecidableEq, Repr

/-! ## The time base (05_time_base_and_releases.md) -/

/-- The time base: the tick length N as last set, the length N of the tick interval now running, and the tick
count (R79, R80). The next-release ticks stand in the loop entries. -/
structure TimeBase where
  tickLength : Nat
  intervalLength : Nat
  tick : Tick
  deriving DecidableEq, Repr

/-! ## The computation unit (06_the_computation_unit.md) -/

/-- The memory words a stage proposes: the second word only where the op uses one (R30, R5). -/
structure Proposal where
  word1 : MemWord
  word2 : Option MemWord
  deriving DecidableEq, Repr

/-- The three marks an instance carries (R31). -/
structure Marks where
  sat : Bool
  stale : Bool
  arith : Bool
  deriving DecidableEq, Repr

/-- An instance (R97). `nextStage` is the next stage index, 1 to the stage count plus 1. -/
structure Instance where
  loop : LoopId
  releaseTick : Tick
  priority : Fin 8
  a : Count
  b : Count
  nextStage : Nat
  proposals : Vector (Option Proposal) 4
  marks : Marks
  abandoned : Bool
  deriving DecidableEq, Repr

/-- The three states of the computation unit (R102). -/
inductive UnitState where
  | idle
  | stage
  | choice
  deriving DecidableEq, Repr

/-- The computation unit: its state, the due queue from head to tail, the running slot and the suspension
stack from top to bottom (R98, R99, R102, R108). -/
structure CompUnit where
  state : UnitState
  due : List Instance
  running : Option Instance
  stack : List Instance
  deriving DecidableEq, Repr

/-! ## The mode controller (11_supervision_and_safe_mode.md) -/

/-- The engine mode (R181). -/
inductive Mode where
  | safe
  | run
  deriving DecidableEq, Repr

/-- The SAFE cause (R181). -/
inductive SafeCause where
  | reset
  | host
  | supervision
  | linkMute
  deriving DecidableEq, Repr

/-- The reset cause (R189). -/
inductive ResetCause where
  | powerOn
  | pin
  | command
  deriving DecidableEq, Repr

/-- The level of an output pin. -/
inductive Level where
  | low
  | high
  deriving DecidableEq, Repr

/-- The mode controller (R181, R182, R187, R189, R191). `supTimer` is `none` while the supervision timer is
stopped, and otherwise the time to expiry in milliseconds it was last started with (log entry 5).
`resetPending` is the RESET-pending condition, in which the dispatcher takes no slot (R171, R191). -/
structure ModeController where
  mode : Mode
  safeCause : SafeCause
  safeN : Level
  supInterval : Nat
  supTimer : Option Nat
  resetCause : ResetCause
  powerOnFlag : Bool
  resetPending : Bool
  deriving DecidableEq, Repr

/-! ## The report unit (08_the_report_stream.md) -/

/-- The ENGINE events (R130). -/
inductive EngineEvent where
  | safeEntered (cause : SafeCause)
  | runEntered
  | linkWarn
  | linkOk
  | muteLeft
  | linkReset
  | reportsDropped (count : BitVec 16)
  deriving DecidableEq, Repr

/-- The content of an OUTPUT report (R130). -/
structure OutputReport where
  loop : LoopId
  primary : Count
  secondary : Option Count
  releaseTick : Tick
  safe : Bool
  stale : Bool
  sat : Bool
  deriving DecidableEq, Repr

/-- The content of an ALARM report (R130). -/
structure AlarmReport where
  loop : LoopId
  latched : FlagSet
  newly : FlagSet
  deriving DecidableEq, Repr

/-- The content of a report, by its kind (R130). -/
inductive Report where
  | output (r : OutputReport)
  | alarm (r : AlarmReport)
  | engine (e : EngineEvent)
  | boot (cause : ResetCause) (powerOnFlag : Bool) (revision : Byte)
  deriving DecidableEq, Repr

/-- The state of a report entry; the RSN is absent in QUEUED (R130, R131). -/
inductive EntryState where
  | queued
  | sent (rsn : Byte)
  | resend (rsn : Byte)
  deriving DecidableEq, Repr

/-- An entry of the report store (R130). -/
structure ReportEntry where
  report : Report
  state : EntryState
  retryCount : Nat
  deriving DecidableEq, Repr

/-- The report unit (R130). `retryTimer` is `none` while the timer is stopped, and otherwise the time to
expiry in milliseconds it was last started with (log entry 5). -/
structure ReportUnit where
  store : List ReportEntry
  nextRsn : Byte
  window : Nat
  defaultWindow : Nat
  retryTimer : Option Nat
  retryTimeout : Nat
  retryLimit : Nat
  engineOwed : List EngineEvent
  droppedCount : BitVec 16
  deriving DecidableEq, Repr

/-! ## The link unit (09_the_serial_link.md) -/

/-- The receiver with its partial frame (R154): `header` holds KIND and TAG as far as they have come, `check`
the high check byte once it has. -/
inductive Receiver where
  | hunt
  | header (got : List Byte)
  | body (kind tag len : Byte) (payload : List Byte)
  | check (kind tag : Byte) (payload : List Byte) (high : Option Byte)
  deriving DecidableEq, Repr

/-- The gap timer; `held` is its standing still behind an undecided byte (R154, R157). -/
inductive GapTimer where
  | stopped
  | running
  | held
  deriving DecidableEq, Repr

/-- What RXD is doing, as far as the receiver's rules depend on it: `taking` while the receiver takes bytes;
`undecided` while RXD stays low after an all-zero byte with a low stop bit (R157); `breakLow` while it stays low
after a recognised break (R167); `startUpLow` while it stays low from start-up (R167). -/
inductive RxdState where
  | taking
  | undecided
  | breakLow
  | startUpLow
  deriving DecidableEq, Repr

/-- A received frame in an inbound slot: KIND, TAG and payload; LEN is the payload's length (R159). -/
structure Frame where
  kind : Byte
  tag : Byte
  payload : List Byte
  deriving DecidableEq, Repr

/-- A response frame in the response queue; `ofReset` marks the one that answers a RESET request that has
passed its checks (R160, R191). -/
structure Response where
  kind : Byte
  tag : Byte
  payload : List Byte
  ofReset : Bool
  deriving DecidableEq, Repr

/-- The transmitter: idle, or sending one frame, of which all the bytes from SYNC to CHECK are held; `ofReset`
as in `Response` (R161). TXD stands high while it is idle (R152). -/
inductive Transmitter where
  | idle
  | sending (bytes : List Byte) (ofReset : Bool)
  deriving DecidableEq, Repr

/-- The link state (R164). -/
inductive LinkState where
  | ok
  | warn
  | mute
  deriving DecidableEq, Repr

/-- The six link counters, sixteen bits each, that stop at 65 535 (R166). -/
structure LinkCounters where
  crcErrors : BitVec 16
  lengthErrors : BitVec 16
  gapErrors : BitVec 16
  overruns : BitVec 16
  protocolErrors : BitVec 16
  breaks : BitVec 16
  deriving DecidableEq, Repr

/-- The link unit (R152, R154, R159 to R164, R166, R194). `lineRate` is the strap setting sampled at the last
full reset. -/
structure LinkUnit where
  lineRate : Straps
  rx : Receiver
  gapTimer : GapTimer
  rxd : RxdState
  slots : List Frame
  responses : List Response
  tx : Transmitter
  lec : BitVec 8
  state : LinkState
  counters : LinkCounters
  startUpHold : Bool
  deriving DecidableEq, Repr

/-! ## The whole part -/

/-- Whether the part is held in reset, before start-up, or running (R193). -/
inductive Power where
  | inReset
  | running
  deriving DecidableEq, Repr

/-- The state of the CJ-416. `alertN` is the level of the ALERT_N pin (R122); SAFE_N stands in the mode
controller, TXD in the transmitter. `choices` counts the free choices made so far and `pending` is the queue of
waiting commands: both are the model's own. -/
structure State where
  power : Power
  loops : Vector LoopEntry 16
  samples : Vector SampleSlot 32
  time : TimeBase
  cu : CompUnit
  ctl : ModeController
  alertN : Level
  rep : ReportUnit
  link : LinkUnit
  choices : Nat
  pending : List Instr
  deriving DecidableEq, Repr

/-- The reasons a step can stop with a fault: none. Every command of the table runs, so nothing raises a fault;
an empty type is the safe choice, since no theorem can be gained from it. -/
inductive Fault where
  deriving DecidableEq, Repr

/-- The reasons a step can be refused. -/
inductive Refusal where
  /-- Raised by an arm of `exec` that has no meaning yet, under its row's mnemonic; safe. No arm raises it. -/
  | notModelled (mnemonic : String)
  deriving DecidableEq, Repr

/-! ## Reset values -/

/-- A stage's words as a full reset leaves them (R1). -/
def Coefs.zero : Coefs := ⟨0, 0, 0, 0⟩

/-- A coefficient bank of zeros (R1, R52). -/
def bankZero : Bank := Vector.replicate 4 Coefs.zero

/-- The memory of an unseeded stage (R1, R50). -/
def StageMem.fresh : StageMem := ⟨0, 0, 0, false⟩

/-- Runtime memory words started afresh (R14, R16). -/
def memFresh : Vector StageMem 4 := Vector.replicate 4 StageMem.fresh

/-- All statistics 0 (R8). -/
def Statistics.zero : Statistics := ⟨0, 0, 0, 0, 0, 0, 0⟩

/-- All five alarm flags (R118). -/
def allFlags : FlagSet := 0b11111

/-- The loop entry of an EMPTY loop, as a full reset and CLEAR_LOOP leave it (R1, R19, R118). -/
def LoopEntry.reset : LoopEntry where
  definition := none
  activeBank := bankZero
  pendingBank := bankZero
  commitPending := false
  primary := 0
  secondary := 0
  mem := memFresh
  state := .empty
  status := .noInstance
  nextRelease := none
  missCount := 0
  outputValid := false
  safeSub := false
  lastReported := none
  divideCounter := 0
  stats := .zero
  alarms := ⟨0, allFlags, 0⟩

/-- A slot never written (R64). -/
def SampleSlot.reset : SampleSlot := ⟨0, 0, false⟩

/-- The time base after a full reset (R79, R80). -/
def TimeBase.reset : TimeBase := ⟨20, 20, 0⟩

/-- The computation unit after a full reset (R99, R102, R108). -/
def CompUnit.reset : CompUnit := ⟨.idle, [], none, []⟩

/-- The report unit after a full reset, before start-up (R151). -/
def ReportUnit.reset : ReportUnit := ⟨[], 0, 4, 4, none, 50, 3, [], 0⟩

/-- The link unit after a full reset with the straps at `straps` (R170, R152). -/
def LinkUnit.reset (straps : Straps) : LinkUnit :=
  ⟨straps, .hunt, .stopped, .taking, [], [], .idle, 0, .ok, ⟨0, 0, 0, 0, 0, 0⟩, false⟩

/-- The mode controller after a full reset with this reset cause record (R193, R187, R189). -/
def ModeController.reset (cause : ResetCause) (powerOnFlag : Bool) : ModeController :=
  ⟨.safe, .reset, .low, 0, none, cause, powerOnFlag, false⟩

/-- The part right after a power-on reset, before the reset ends: every block at its reset values (R193).
DESIGN CHOICE (log entry 4): the straps stand at 00, and the part is still in reset, so that START_UP is the
first event. -/
def State.reset : State where
  power := .inReset
  loops := Vector.replicate 16 LoopEntry.reset
  samples := Vector.replicate 32 SampleSlot.reset
  time := .reset
  cu := .reset
  ctl := .reset .powerOn true
  alertN := .high
  rep := .reset
  link := .reset 0
  choices := 0
  pending := []

end Sys2Proof.Machine
end

