-- ==== Sys2Proof/Config.lean ====
section
/-! DEFINITION. What is fixed for the part, and the FREE VALUES: constants without a body, which stand for
what the manual leaves open. Nothing can be proved of a free value, so a theorem holds whatever it is. -/

namespace Sys2Proof.Config

/-- The part code IDENTIFY returns (R176). -/
def partCode : BitVec 16 := 0x0416

/-- The part revision of IDENTIFY and of the BOOT report (R176, R138). -/
def revision : Byte := 0x01

/-- The inbound slots (R159). -/
def inboundSlots : Nat := 4

/-- The entries of the response queue (R160). -/
def responseQueue : Nat := 4

/-- The depth of the suspension stack (R108). -/
def stackDepth : Nat := 3

/-- The entries of the report store (R132). -/
def storeSize : Nat := 24

/-- The entries OUTPUT and ALARM reports may bring the store to (R132). -/
def storeSizeForLoops : Nat := 22

/-- The longest payload of a frame (R153). -/
def maxPayload : Nat := 240

/-- FREE VALUE (log entry 1). The pair of integers the unit forms for ROTATE, before it is held within the
accuracy of R41 and clamped: a fixed function of a, b and the angle (R43), which the manual does not give. -/
opaque rotateFormed : (a b : Int) → (angle : Nat) → Int × Int

/-- FREE VALUE (log entry 1). The magnitude and the angle the unit forms for ATAN, before they are held
within the accuracy of R42: a fixed function of x and y (R43), which the manual does not give. -/
opaque atanFormed : (x y : Int) → Int × Int

/-- FREE VALUE (log entry 2). Which of two things is taken first when one event both appends a response and
makes a report eligible while the transmitter is idle: R161 takes them in either order. `true` says that the
report's eligibility is taken first. Applied to the counter `State.choices`. -/
opaque reportTakenFirst : Nat → Bool

end Sys2Proof.Config
end

