-- ==== Sys2Proof/WellFormed.lean ====
section
/-! DEFINITION. Which commands can come from outside: what the frame format lets a command carry. -/

namespace Sys2Proof

/-- The kinds the dispatcher carries out (Message Formats 10.2, the request kinds other than REPORT_ACK; R172). -/
def requestKinds : List Byte :=
  [0x01, 0x02, 0x03, 0x04, 0x05, 0x06, 0x07, 0x08, 0x10, 0x11, 0x12, 0x13, 0x14, 0x15, 0x16,
   0x18, 0x19, 0x1A, 0x20, 0x21, 0x28, 0x29, 0x2A]

/-- The kind code of REPORT_ACK (Message Formats 10.2). -/
def reportAckKind : Byte := 0x40

/-- LEN is 0 to 240 (R153). -/
def payloadFits (payload : List Byte) : Bool := payload.length ≤ Config.maxPayload

/-- A command is well formed when a frame can carry it: its payload fits (R153), and the kind of an
UNKNOWN_KIND_REQUEST is one the dispatcher does not carry out and not REPORT_ACK, which never reaches a slot
(R172, R158). -/
def Instr.wf : Instr → Bool
  | .identify _ p => payloadFits p
  | .status _ p => payloadFits p
  | .configure _ p => payloadFits p
  | .ping _ p => payloadFits p
  | .enterSafe _ p => payloadFits p
  | .resume _ p => payloadFits p
  | .reset _ p => payloadFits p
  | .clearCause _ p => payloadFits p
  | .defineLoop _ p => payloadFits p
  | .armLoop _ p => payloadFits p
  | .holdLoop _ p => payloadFits p
  | .unholdLoop _ p => payloadFits p
  | .clearLoop _ p => payloadFits p
  | .readLoop _ p => payloadFits p
  | .presetLoop _ p => payloadFits p
  | .loadCoef _ p => payloadFits p
  | .commitCoefApply _ m => m.length < Config.maxPayload
  | .commitCoefDiscard _ m => m.length < Config.maxPayload
  | .readCoef _ p => payloadFits p
  | .writeSamples _ p => payloadFits p
  | .readSamples _ p => payloadFits p
  | .readAlarms _ p => payloadFits p
  | .clearAlarms _ p => payloadFits p
  | .maskAlarms _ p => payloadFits p
  | .unknownKindRequest k _ p => payloadFits p && !requestKinds.contains k && k != reportAckKind
  | .reportAck _ p => payloadFits p
  | .goodFrame _ _ p => payloadFits p
  | .crcError => true
  | .lengthError => true
  | .framingError _ => true
  | .gapTimerExpiry => true
  | .lineBreak _ => true
  | .startUpHoldEnd => true
  | .powerOnReset _ => true
  | .pinReset _ => true
  | .startUp _ => true
  | .frameEnd _ _ => true
  | .tick => true
  | .release _ => true
  | .stageCompletion => true
  | .retryTimerExpiry => true
  | .supervisionExpiry => true
  | .byteReceived _ => true
  | .rxdReturnsHigh => true

end Sys2Proof
end

