-- ==== Sys2Proof/Machine/Operands.lean ====
section
/-! DEFINITION. Byte order, exact arithmetic helpers, the encodings of Message Formats 10.2, and the layouts of
10.3 that a request's payload is read with and a response's or a report's payload is built with. -/

namespace Sys2Proof.Machine

/-! ## Bytes (00_scope.md: most significant byte first) -/

def bytes16 (w : BitVec 16) : List Byte := [w.extractLsb' 8 8, w.extractLsb' 0 8]

def bytes32 (w : BitVec 32) : List Byte :=
  [w.extractLsb' 24 8, w.extractLsb' 16 8, w.extractLsb' 8 8, w.extractLsb' 0 8]

/-- The byte at a position of a payload; 0 past its end, where no check that has passed lets a field stand. -/
def byteAt (p : List Byte) (i : Nat) : Byte := p.getD i 0

def word16At (p : List Byte) (i : Nat) : BitVec 16 := byteAt p i ++ byteAt p (i + 1)

def word32At (p : List Byte) (i : Nat) : BitVec 32 := word16At p i ++ word16At p (i + 2)

/-- Every flag is written as 00h or 01h (R174). -/
def boolByte (b : Bool) : Byte := if b then 1 else 0

def natByte (n : Nat) : Byte := BitVec.ofNat 8 n

def natBytes16 (n : Nat) : List Byte := bytes16 (BitVec.ofNat 16 n)

/-! ## Exact arithmetic (00_scope.md, Saturation; R31) -/

/-- A clamp with its limits named. -/
def clamp (lo hi x : Int) : Int := if x < lo then lo else if hi < x then hi else x

/-- "sat16": a clamp to the count range (R31). -/
def sat16 (x : Int) : Int := clamp (-32768) 32767 x

/-- The count that holds a value of the count range. -/
def toCount (x : Int) : Count := BitVec.ofInt 16 x

/-- A counter raised by 1 that stops at its largest value (R8, R166, R6). -/
def satInc {w : Nat} (c : BitVec w) : BitVec w := if c = BitVec.allOnes w then c else c + 1

/-- A sixteen-bit sum that stops at 65 535 (R137). -/
def satAdd (a b : BitVec 16) : BitVec 16 := BitVec.ofNat 16 (min 65535 (a.toNat + b.toNat))

/-! ## Result codes (10.2) -/

/-- The result codes. -/
inductive Result where
  | ok
  | badKind
  | badLength
  | badField
  | badLoop
  | state
  | mode
  | pending
  | linkMuted
  deriving DecidableEq, Repr

def Result.toByte : Result → Byte
  | .ok => 0x00
  | .badKind => 0x01
  | .badLength => 0x02
  | .badField => 0x03
  | .badLoop => 0x04
  | .state => 0x05
  | .mode => 0x06
  | .pending => 0x07
  | .linkMuted => 0x08

/-! ## Enumerated values (10.2, R174) -/

def StageOp.ofByte (b : Byte) : Option StageOp :=
  match b.toNat with
  | 1 => some .gain
  | 2 => some .sum
  | 3 => some .lpf
  | 4 => some .pid
  | 5 => some .div
  | 6 => some .rotate
  | 7 => some .atan
  | 8 => some .limit
  | _ => none

def StageOp.toByte : StageOp → Byte
  | .gain => 1
  | .sum => 2
  | .lpf => 3
  | .pid => 4
  | .div => 5
  | .rotate => 6
  | .atan => 7
  | .limit => 8

def HoldAction.ofByte (b : Byte) : Option HoldAction :=
  match b.toNat with
  | 0 => some .last
  | 1 => some .safe
  | _ => none

def HoldAction.toByte : HoldAction → Byte
  | .last => 0
  | .safe => 1

def StalePolicy.ofByte (b : Byte) : Option StalePolicy :=
  match b.toNat with
  | 0 => some .use
  | 1 => some .skip
  | 2 => some .fault
  | _ => none

def StalePolicy.toByte : StalePolicy → Byte
  | .use => 0
  | .skip => 1
  | .fault => 2

def ArithPolicy.ofByte (b : Byte) : Option ArithPolicy :=
  match b.toNat with
  | 0 => some .proceed
  | 1 => some .fault
  | _ => none

def ArithPolicy.toByte : ArithPolicy → Byte
  | .proceed => 0
  | .fault => 1

def ReportMode.ofByte (b : Byte) : Option ReportMode :=
  match b.toNat with
  | 0 => some .every
  | 1 => some .divide
  | 2 => some .change
  | 3 => some .silent
  | _ => none

def ReportMode.toByte : ReportMode → Byte
  | .every => 0
  | .divide => 1
  | .change => 2
  | .silent => 3

/-- A flag set byte: bits 5 to 7 are zero (R174). -/
def flagsOfByte (b : Byte) : Option FlagSet := if b.toNat < 32 then some (b.setWidth 5) else none

def flagsByte (f : FlagSet) : Byte := f.setWidth 8

def LoopState.toByte : LoopState → Byte
  | .empty => 0
  | .idle => 1
  | .armed => 2
  | .active => 3
  | .held _ => 4
  | .faulted => 5

/-- The hold reason byte, 00h while absent. -/
def LoopState.holdByte : LoopState → Byte
  | .held .host => 1
  | .held .safe => 2
  | _ => 0

def InstanceStatus.toByte : InstanceStatus → Byte
  | .noInstance => 0
  | .due => 1
  | .running => 2
  | .suspended => 3

def Mode.toByte : Mode → Byte
  | .safe => 0
  | .run => 1

def SafeCause.toByte : SafeCause → Byte
  | .reset => 0
  | .host => 1
  | .supervision => 2
  | .linkMute => 3

def LinkState.toByte : LinkState → Byte
  | .ok => 0
  | .warn => 1
  | .mute => 2

def ResetCause.toByte : ResetCause → Byte
  | .powerOn => 0
  | .pin => 1
  | .command => 2

/-- The ALERT_N level byte of READ_ALARMS: 00h high, 01h low. -/
def Level.toByte : Level → Byte
  | .high => 0
  | .low => 1

/-- The event and argument bytes of an ENGINE report. -/
def EngineEvent.toBytes : EngineEvent → List Byte
  | .safeEntered c => 0x01 :: bytes16 (c.toByte.setWidth 16)
  | .runEntered => [0x02, 0, 0]
  | .linkWarn => [0x03, 0, 0]
  | .linkOk => [0x04, 0, 0]
  | .muteLeft => [0x05, 0, 0]
  | .linkReset => [0x06, 0, 0]
  | .reportsDropped n => 0x07 :: bytes16 n

/-! ## Bindings (R3, 10.2) -/

def loopOfByte (b : Byte) : Option LoopId := if h : b.toNat < 16 then some ⟨b.toNat, h⟩ else none

def slotOfByte (b : Byte) : Option SlotId := if h : b.toNat < 32 then some ⟨b.toNat, h⟩ else none

/-- The index byte of ZERO is not checked (R174). -/
def parseBinding (form index : Byte) : Option Binding :=
  match form.toNat with
  | 0 => some .zero
  | 1 => (slotOfByte index).map .sample
  | 2 => (loopOfByte index).map .primary
  | 3 => (loopOfByte index).map .secondary
  | _ => none

/-- Input B may be absent, FFh; its index byte is then not checked (R2, R174). -/
def parseInputB (form index : Byte) : Option (Option Binding) :=
  if form = 0xFF then some none else (parseBinding form index).map some

def Binding.toBytes : Binding → List Byte
  | .zero => [0, 0]
  | .sample s => [1, natByte s]
  | .primary n => [2, natByte n]
  | .secondary n => [3, natByte n]

def inputBBytes : Option Binding → List Byte
  | none => [0xFF, 0]
  | some b => b.toBytes

/-! ## Stages and definitions (R4, R13, 10.3) -/

/-- The coefficient words an op refuses: a negative K of LPF, a LIMIT range with lo above hi (R13, R46, R54). -/
def coefsLegal (op : StageOp) (c : Coefs) : Bool :=
  match op with
  | .lpf => 0 ≤ c.c0.toInt
  | .limit => c.c0.toInt ≤ c.c1.toInt
  | _ => true

def coefsAt (p : List Byte) (i : Nat) : Coefs :=
  ⟨word16At p i, word16At p (i + 2), word16At p (i + 4), word16At p (i + 6)⟩

def Coefs.toBytes (c : Coefs) : List Byte := bytes16 c.c0 ++ bytes16 c.c1 ++ bytes16 c.c2 ++ bytes16 c.c3

/-- A stage entry of DEFINE_LOOP at position `i`, or `none` where it fails the field check: an op that is not
one of the eight, a GAIN target above 02h, a shift above 15, or coefficients the op refuses (R13, R174). -/
def parseStage (p : List Byte) (i : Nat) : Option (StageDesc × Coefs) :=
  match StageOp.ofByte (byteAt p i) with
  | none => none
  | some op =>
    let target := byteAt p (i + 1)
    let c := coefsAt p (i + 4)
    if h : (byteAt p (i + 2)).toNat < 16 then
      if (op = .gain ∧ 2 < target.toNat) ∨ coefsLegal op c = false then none
      else some (⟨op, target, ⟨(byteAt p (i + 2)).toNat, h⟩, byteAt p (i + 3) != 0⟩, c)
    else none

/-- `k` stage entries from position `i` on. -/
def parseStages (p : List Byte) : (k i : Nat) → Option (List (StageDesc × Coefs))
  | 0, _ => some []
  | k + 1, i =>
    match parseStage p i, parseStages p k (i + 12) with
    | some st, some rest => some (st :: rest)
    | _, _ => none

/-- A report mode with its parameter: DIVIDE takes n of 2 to 255, CHANGE a d other than 0 (R13). -/
def reportParamLegal (m : ReportMode) (param : BitVec 16) : Bool :=
  match m with
  | .divide => 2 ≤ param.toNat && param.toNat ≤ 255
  | .change => param.toNat != 0
  | _ => true

/-- The two banks' words, zeros for unused stages (R4). -/
def bankOf (cs : List Coefs) : Bank :=
  #v[cs.getD 0 .zero, cs.getD 1 .zero, cs.getD 2 .zero, cs.getD 3 .zero]

/-- The ranges of R13 that relate numbers of the definition. -/
def rangesLegal (period offset : BitVec 16) (outMin outMax safeValue : Count) : Bool :=
  0 < period.toNat && offset.toNat < period.toNat && outMin.toInt ≤ outMax.toInt
    && outMin.toInt ≤ safeValue.toInt && safeValue.toInt ≤ outMax.toInt

/-- The definition and the bank a DEFINE_LOOP payload carries, or `none` where it fails the field check
(R2, R13, R174). -/
def parseDefinition (p : List Byte) : Option (Definition × Bank) := do
  let period := word16At p 2
  let offset := word16At p 4
  let outMin := word16At p 11
  let outMax := word16At p 13
  let safeValue := word16At p 15
  let k := (byteAt p 10).toNat
  let priority ← if h : (byteAt p 1).toNat < 8 then some (⟨(byteAt p 1).toNat, h⟩ : Fin 8) else none
  let inputA ← parseBinding (byteAt p 6) (byteAt p 7)
  let inputB ← parseInputB (byteAt p 8) (byteAt p 9)
  let holdAction ← HoldAction.ofByte (byteAt p 17)
  let stalePolicy ← StalePolicy.ofByte (byteAt p 18)
  let arithPolicy ← ArithPolicy.ofByte (byteAt p 22)
  let reportMode ← ReportMode.ofByte (byteAt p 23)
  let alarmMask ← flagsOfByte (byteAt p 27)
  let stages ← if 1 ≤ k ∧ k ≤ 4 then parseStages p k 28 else none
  if rangesLegal period offset outMin outMax safeValue && reportParamLegal reportMode (word16At p 24) then
    some ({ priority, period, offset, inputA, inputB
            stages := stages.map (·.1)
            outMin, outMax, safeValue, holdAction, stalePolicy
            maxAge := word16At p 19
            missLimit := byteAt p 21
            arithPolicy, reportMode
            reportParam := word16At p 24
            includeSecondary := byteAt p 26 != 0
            alarmMask },
          bankOf (stages.map (·.2)))
  else none

/-- The 27 bytes of a definition in READ_LOOP's response: the DEFINE_LOOP fields from priority to alarm mask
(10.3). -/
def Definition.toBytes (d : Definition) : List Byte :=
  [natByte d.priority] ++ bytes16 d.period ++ bytes16 d.offset ++ d.inputA.toBytes ++ inputBBytes d.inputB
    ++ [natByte d.stages.length] ++ bytes16 d.outMin ++ bytes16 d.outMax ++ bytes16 d.safeValue
    ++ [d.holdAction.toByte, d.stalePolicy.toByte] ++ bytes16 d.maxAge ++ [d.missLimit, d.arithPolicy.toByte]
    ++ [d.reportMode.toByte] ++ bytes16 d.reportParam ++ [boolByte d.includeSecondary, flagsByte d.alarmMask]

/-- The four bytes of a stage descriptor in READ_LOOP's response; zeros for an unused stage (10.3). -/
def stageDescBytes : Option StageDesc → List Byte
  | none => [0, 0, 0, 0]
  | some d => [d.op.toByte, d.target, natByte d.shift, boolByte d.setpointFromB]

def StageMem.toBytes (m : StageMem) : List Byte :=
  bytes32 m.word1 ++ bytes32 m.word2 ++ bytes32 m.word3 ++ [boolByte m.seeded]

def Statistics.toBytes (t : Statistics) : List Byte :=
  bytes16 t.releasesTaken ++ bytes16 t.completions ++ bytes16 t.misses ++ bytes16 t.skips
    ++ bytes16 t.preemptions ++ bytes16 t.saturations ++ bytes16 t.outputsDropped

/-! ## Report payloads (10.3) -/

def OutputReport.toBytes (r : OutputReport) : List Byte :=
  [natByte r.loop,
   boolByte r.safe ||| (boolByte r.stale <<< 1) ||| (boolByte r.sat <<< 2) ||| (boolByte r.secondary.isSome <<< 3)]
    ++ bytes16 r.primary ++ bytes32 r.releaseTick ++ (r.secondary.map bytes16).getD []

/-- The kind code of a report (10.2). -/
def Report.kind : Report → Byte
  | .output _ => 0xC0
  | .alarm _ => 0xC1
  | .engine _ => 0xC2
  | .boot _ _ _ => 0xC3

/-- The payload of a report (10.3). -/
def Report.payload : Report → List Byte
  | .output r => r.toBytes
  | .alarm r => [natByte r.loop, flagsByte r.latched, flagsByte r.newly]
  | .engine e => e.toBytes
  | .boot c flag rev => [c.toByte, boolByte flag, rev]

/-! ## Frames (R153) -/

/-- One shift of the CRC register. -/
def crcShift (r : BitVec 16) : BitVec 16 := if r.msb then (r <<< 1) ^^^ 0x1021 else r <<< 1

/-- The CRC register after one more byte. -/
def crcByte (r : BitVec 16) (b : Byte) : BitVec 16 :=
  let r0 := r ^^^ (b.setWidth 16 <<< 8)
  crcShift (crcShift (crcShift (crcShift (crcShift (crcShift (crcShift (crcShift r0)))))))

/-- The CRC over the bytes from KIND to the last payload byte, from FFFFh on. -/
def crc16 (bytes : List Byte) : BitVec 16 := bytes.foldl crcByte 0xFFFF

/-- The bytes a frame's CHECK covers: KIND, TAG, LEN and PAYLOAD. -/
def checkedBytes (kind tag : Byte) (payload : List Byte) : List Byte :=
  kind :: tag :: natByte payload.length :: payload

/-- The whole frame, SYNC to CHECK. -/
def frameBytes (kind tag : Byte) (payload : List Byte) : List Byte :=
  0xA5 :: checkedBytes kind tag payload ++ bytes16 (crc16 (checkedBytes kind tag payload))

end Sys2Proof.Machine
end

