-- ==== Sys2Proof/Machine/Flags.lean ====
section
/-! DEFINITION. The alarm flags and the marks an instance turns into them (R118, R31, R48). -/

namespace Sys2Proof.Machine

def flagSat : FlagSet := 0b00001
def flagMiss : FlagSet := 0b00010
def flagStale : FlagSet := 0b00100
def flagArith : FlagSet := 0b01000
def flagFault : FlagSet := 0b10000

/-- `f` where `b` holds, the empty set otherwise. -/
def flagsWhen (b : Bool) (f : FlagSet) : FlagSet := if b then f else 0

/-- The flags a completion hands to the alarm unit: one for each mark the instance carries (R48). -/
def Marks.flags (m : Marks) : FlagSet :=
  flagsWhen m.sat flagSat ||| flagsWhen m.stale flagStale ||| flagsWhen m.arith flagArith

/-- An alarm record with a latched flag its mask enables pulls ALERT_N low (R122). -/
def AlarmRecord.alerting (r : AlarmRecord) : Bool := r.latched &&& r.mask != 0

/-- The flags of `handed` that go from clear to set (R120). -/
def AlarmRecord.raised (r : AlarmRecord) (handed : FlagSet) : FlagSet := handed &&& ~~~r.latched

/-- The raised flags the mask enables (R120). -/
def AlarmRecord.newlyRaised (r : AlarmRecord) (handed : FlagSet) : FlagSet := r.raised handed &&& r.mask

/-- Every handed flag is added to the latched set, whatever the mask holds (R119). -/
def AlarmRecord.latch (r : AlarmRecord) (handed : FlagSet) : AlarmRecord :=
  { r with latched := r.latched ||| handed }

/-- The named flags leave the latched set and the owed set (R124). -/
def AlarmRecord.clear (r : AlarmRecord) (named : FlagSet) : AlarmRecord :=
  { r with latched := r.latched &&& ~~~named, owed := r.owed &&& ~~~named }

/-- A new mask: the flags it disables leave the owed set (R125, steps 1 and 2). -/
def AlarmRecord.remask (r : AlarmRecord) (newMask : FlagSet) : AlarmRecord :=
  { r with mask := newMask, owed := r.owed &&& ~~~(r.mask &&& ~~~newMask) }

/-- The latched flags a new mask newly enables, which count as newly raised (R125, step 3). -/
def AlarmRecord.newlyEnabled (r : AlarmRecord) (newMask : FlagSet) : FlagSet :=
  newMask &&& ~~~r.mask &&& r.latched

end Sys2Proof.Machine
end

