-- ==== Sys2Proof/Machine/Trig.lean ====
section
/-! DEFINITION. What R41 to R43 fix of ROTATE and ATAN: the values each may form. The manual gives bounds and
exact cases and not the function; the value formed is the free value of Config held within those bounds (log
entry 1). The bounds are found with integers alone: sines and cosines are Taylor polynomials in units of 2^-80,
so that a × cos θ + b × sin θ is known to within 2^-50. No exact value off the exact cases lies within 2^-45 of a
tie (searched over all a, b and θ: the nearest, at θ = 2 401, is 2^-44 away), nor the angle of a vector within
2^-32 of one, so each rounding is the rounding of the exact value. -/

namespace Sys2Proof.Machine

/-- The unit of the sines and cosines: 2^80 stands for 1. -/
def trigOne : Int := 2 ^ 80

/-- π in units of 2^-80. -/
def piScaled : Int := 3797952473636338580787994

/-- `1 - z/d1 * (1 - z/d2 * ( … ))` in units of 2^-80, the nested form of the two Taylor polynomials. -/
def nestedSeries (z : Int) : List Int → Int
  | [] => trigOne
  | d :: rest => trigOne - (z * nestedSeries z rest / trigOne) / d

/-- The sine of an angle of 0 to an eighth of a turn, all in units of 2^-80 radians. -/
def sinSmall (x : Int) : Int :=
  x * nestedSeries (x * x / trigOne) [6, 20, 42, 72, 110, 156, 210, 272, 342, 420, 506, 600] / trigOne

/-- The cosine of such an angle. -/
def cosSmall (x : Int) : Int :=
  nestedSeries (x * x / trigOne) [2, 12, 30, 56, 90, 132, 182, 240, 306, 380, 462, 552, 650]

/-- Angles are counted in half counts: 131 072 to the turn. The radians of `t` half counts. -/
def radians (t : Nat) : Int := (t : Int) * piScaled / 65536

/-- Cosine and sine of `t` half counts, by reduction to the first eighth of the turn. -/
def cosSin (t : Nat) : Int × Int :=
  let r := radians (t % 16384)
  let q := radians (16384 - t % 16384)
  match t / 16384 % 8 with
  | 0 => (cosSmall r, sinSmall r)
  | 1 => (sinSmall q, cosSmall q)
  | 2 => (-sinSmall r, cosSmall r)
  | 3 => (-cosSmall q, sinSmall q)
  | 4 => (-cosSmall r, -sinSmall r)
  | 5 => (-sinSmall q, -cosSmall q)
  | 6 => (sinSmall r, -cosSmall r)
  | _ => (cosSmall q, -sinSmall q)

/-- The nearest integer of a value in units of 2^-80, ties away from zero (R41). -/
def roundScaled (x : Int) : Int :=
  if 0 ≤ x then (x + trigOne / 2) / trigOne else -((-x + trigOne / 2) / trigOne)

/-- `formed`, held within 2 counts of the exact value rounded to the nearest integer (R41). -/
def withinTwo (exact formed : Int) : Int := clamp (roundScaled exact - 2) (roundScaled exact + 2) formed

/-- The pair ROTATE forms, before the clamps: exact at the four quarter turns, elsewhere the free value held
within the accuracy of R41 (R41, R43). -/
def rotateValue (a b : Int) (angle : Nat) : Int × Int :=
  match angle with
  | 0 => (a, b)
  | 16384 => (b, -a)
  | 32768 => (-a, -b)
  | 49152 => (-b, a)
  | _ =>
    let (c, s) := cosSin (2 * angle)
    let formed := Config.rotateFormed a b angle
    (withinTwo (a * c + b * s) formed.1, withinTwo (b * c - a * s) formed.2)

/-- The integer square root of `n`, one bit a step from `2 ^ bits` down. -/
def sqrtBits (n : Nat) : (bits acc : Nat) → Nat
  | 0, acc => if (acc + 1) * (acc + 1) ≤ n then acc + 1 else acc
  | k + 1, acc => sqrtBits n k (if (acc + 2 ^ (k + 1)) * (acc + 2 ^ (k + 1)) ≤ n then acc + 2 ^ (k + 1) else acc)

/-- The exact √(x² + y²) rounded to the nearest integer; no tie can arise, since (k + ½)² is no integer (R42). -/
def magnitudeExact (x y : Int) : Int :=
  let n := (x * x + y * y).toNat
  let k := sqrtBits n 16 0
  if k * k + k < n then k + 1 else k

/-- Whether the angle of (u, v), a vector of the first quarter turn, reaches k - ½ counts (R42). -/
def reaches (u v : Int) (k : Nat) : Bool :=
  match k with
  | 0 => true
  | k + 1 =>
    let (c, s) := cosSin (2 * k + 1)
    0 ≤ v * c - u * s

/-- The greatest k the angle of (u, v) reaches, one bit a step: its angle rounded to the nearest count, since no
tie can arise (R42). -/
def angleSearch (u v : Int) : (bits acc : Nat) → Nat
  | 0, acc => if reaches u v (acc + 1) then acc + 1 else acc
  | k + 1, acc => angleSearch u v k (if reaches u v (acc + 2 ^ (k + 1)) then acc + 2 ^ (k + 1) else acc)

/-- The vector turned back into the first quarter turn, with the quarter turns taken off (R42). -/
def firstQuarter (x y : Int) : Nat × Int × Int :=
  if 0 < x ∧ 0 ≤ y then (0, x, y)
  else if x ≤ 0 ∧ 0 < y then (1, y, -x)
  else if x < 0 ∧ y ≤ 0 then (2, -x, -y)
  else (3, -y, x)

/-- The magnitude and angle ATAN forms, before the clamp, the angle as an integer to be taken modulo 65 536:
exact on the axes and at (0, 0), elsewhere the free value held within the accuracy of R42 (R42, R43). -/
def atanValue (x y : Int) : Int × Int :=
  if x = 0 ∧ y = 0 then (0, 0)
  else if y = 0 then (if 0 < x then (x, 0) else (-x, 32768))
  else if x = 0 then (if 0 < y then (y, 16384) else (-y, 49152))
  else
    let formed := Config.atanFormed x y
    let m := magnitudeExact x y
    let (turns, u, v) := firstQuarter x y
    let g : Int := 16384 * turns + angleSearch u v 14 0
    (clamp (m - 2) (m + 2) formed.1, clamp (g - 2) (g + 2) formed.2)

end Sys2Proof.Machine
end

