-- ==== Sys2Proof/Machine/Stages.lean ====
section
/-! DEFINITION. What a stage computes: the eight operations in exact integer arithmetic (R31 to R45). -/

namespace Sys2Proof.Machine

/-- What a stage hands over at its stage completion: the new working pair, the proposed memory words where its
op has memory, and the SAT and ARITH marks it raised (R30). -/
structure StageResult where
  a : Count
  b : Count
  proposal : Option Proposal
  sat : Bool
  arith : Bool
  deriving DecidableEq, Repr

/-- A clamp that changes its value marks SAT (R31). -/
def clampMarks (lo hi x : Int) : Bool := clamp lo hi x != x

/-- Whether sat16 changes a value (R31). -/
def satMarks (x : Int) : Bool := sat16 x != x

/-- The greatest integrator, 32 767 × 4 096 (R5, R36). -/
def integratorMax : Int := 134213632

/-- Whether a GAIN target names a, 00h A or 02h BOTH (10.2). -/
def targetsA (t : Byte) : Bool := t == 0 || t == 2

/-- Whether a GAIN target names b, 01h B or 02h BOTH (10.2). -/
def targetsB (t : Byte) : Bool := t == 1 || t == 2

/-- The product of GAIN, shifted (R33). -/
def gainValue (x c0 : Int) (shift : Nat) : Int := (x * c0) >>> shift

/-- GAIN (R33). -/
def stageGain (d : StageDesc) (c : Coefs) (a b : Count) : StageResult :=
  let va := gainValue a.toInt c.c0.toInt d.shift
  let vb := gainValue b.toInt c.c0.toInt d.shift
  { a := if targetsA d.target then toCount (sat16 va) else a
    b := if targetsB d.target then toCount (sat16 vb) else b
    proposal := none
    sat := (targetsA d.target && satMarks va) || (targetsB d.target && satMarks vb)
    arith := false }

/-- The value of SUM before its clamp (R34). -/
def sumValue (c : Coefs) (a b : Int) : Int := ((c.c0.toInt * a + c.c1.toInt * b) >>> (14 : Nat)) + c.c2.toInt

/-- SUM (R34). -/
def stageSum (c : Coefs) (a b : Count) : StageResult :=
  let v := sumValue c a.toInt b.toInt
  ⟨toCount (sat16 v), b, none, satMarks v, false⟩

/-- The accumulator a seeded LPF proposes, clamped to 32 bits (R35). -/
def lpfNext (k f a : Int) : Int :=
  clamp (-2147483648) 2147483647 (f + ((k * (a * 65536 - f)) >>> (15 : Nat)))

/-- LPF (R35). -/
def stageLpf (c : Coefs) (m : StageMem) (a b : Count) : StageResult :=
  if m.seeded then
    let raw := m.word1.toInt + ((c.c0.toInt * (a.toInt * 65536 - m.word1.toInt)) >>> (15 : Nat))
    let f := lpfNext c.c0.toInt m.word1.toInt a.toInt
    ⟨toCount (sat16 (f >>> (16 : Nat))), b, some ⟨BitVec.ofInt 32 f, none⟩,
      clampMarks (-2147483648) 2147483647 raw || satMarks (f >>> (16 : Nat)), false⟩
  else ⟨a, b, some ⟨BitVec.ofInt 32 (a.toInt * 65536), none⟩, false, false⟩

/-- The terms of PID (R36, R37). -/
structure PidTerms where
  /-- the error e -/
  e : Int
  /-- the integrator I read at the start -/
  i : Int
  /-- I + c1 × e before its clamp -/
  raw : Int
  /-- the proposed integrator I′ -/
  next : Int
  /-- the unscaled output u -/
  u : Int
  deriving DecidableEq, Repr

/-- The setpoint: b when the flag is set, c3 when it is clear (R36). -/
def pidSetpoint (d : StageDesc) (c : Coefs) (b : Count) : Int :=
  if d.setpointFromB then b.toInt else c.c3.toInt

/-- The terms PID forms; an unseeded stage takes e_prev to be e (R36, R37). -/
def pidTerms (d : StageDesc) (c : Coefs) (m : StageMem) (a b : Count) : PidTerms :=
  let e := pidSetpoint d c b - a.toInt
  let i := m.word1.toInt
  let ePrev := if m.seeded then m.word2.toInt else e
  let raw := i + c.c1.toInt * e
  let next := clamp (-integratorMax) integratorMax raw
  { e, i, raw, next, u := (c.c0.toInt * e + next + c.c2.toInt * (e - ePrev)) >>> (12 : Nat) }

/-- Whether R38 holds the integrator: the output is saturated and c1 × e drives it further. -/
def pidHolds (c1 : Int) (t : PidTerms) : Bool :=
  (0 < c1 * t.e && 32767 < t.u) || (c1 * t.e < 0 && t.u < -32768)

/-- PID (R36 to R38). -/
def stagePid (d : StageDesc) (c : Coefs) (m : StageMem) (a b : Count) : StageResult :=
  let t := pidTerms d c m a b
  { a := toCount (sat16 t.u)
    b := b
    proposal := some ⟨BitVec.ofInt 32 (if pidHolds c.c1.toInt t then t.i else t.next),
      some (BitVec.ofInt 32 t.e)⟩
    sat := clampMarks (-integratorMax) integratorMax t.raw || satMarks t.u
    arith := false }

/-- DIV; the quotient truncates toward zero, and a divisor of 0 marks ARITH and not SAT (R39, R40). -/
def stageDiv (d : StageDesc) (a b : Count) : StageResult :=
  if b.toInt = 0 then ⟨if 0 ≤ a.toInt then toCount 32767 else toCount (-32768), b, none, false, true⟩
  else
    let q := Int.tdiv (a.toInt * 2 ^ (d.shift : Nat)) b.toInt
    ⟨toCount (sat16 q), b, none, satMarks q, false⟩

/-- ROTATE; the angle is c0 taken as unsigned (R41, R43). -/
def stageRotate (c : Coefs) (a b : Count) : StageResult :=
  let v := rotateValue a.toInt b.toInt c.c0.toNat
  ⟨toCount (sat16 v.1), toCount (sat16 v.2), none, satMarks v.1 || satMarks v.2, false⟩

/-- ATAN; the angle is carried as the count with the same sixteen bits, and is not clamped (R42, R43). -/
def stageAtan (a b : Count) : StageResult :=
  let v := atanValue a.toInt b.toInt
  ⟨toCount (sat16 v.1), toCount v.2, none, satMarks v.1, false⟩

/-- The value LIMIT hands on: the range clamp, then the rate clamp where the rate is above 0 and the stage is
seeded (R44, R45). -/
def limitValue (c : Coefs) (m : StageMem) (a : Int) : Int :=
  let ranged := clamp c.c0.toInt c.c1.toInt a
  if 0 < c.c2.toInt ∧ m.seeded = true then
    clamp (m.word1.toInt - c.c2.toInt) (m.word1.toInt + c.c2.toInt) ranged
  else ranged

/-- Whether a clamp of LIMIT changes its value (R44, R45, R31). -/
def limitMarks (c : Coefs) (m : StageMem) (a : Int) : Bool :=
  clampMarks c.c0.toInt c.c1.toInt a || limitValue c m a != clamp c.c0.toInt c.c1.toInt a

/-- LIMIT (R44, R45). -/
def stageLimit (c : Coefs) (m : StageMem) (a b : Count) : StageResult :=
  let v := limitValue c m a.toInt
  ⟨toCount v, b, some ⟨BitVec.ofInt 32 (toCount v).toInt, none⟩, limitMarks c m a.toInt, false⟩

/-- A stage, by its op (R32). -/
def runStage (d : StageDesc) (c : Coefs) (m : StageMem) (a b : Count) : StageResult :=
  match d.op with
  | .gain => stageGain d c a b
  | .sum => stageSum c a b
  | .lpf => stageLpf c m a b
  | .pid => stagePid d c m a b
  | .div => stageDiv d a b
  | .rotate => stageRotate c a b
  | .atan => stageAtan a b
  | .limit => stageLimit c m a b

/-- The memory words an op's PRESET_LOOP words are checked against and written into: how many it uses, with their
ranges (R5, R20). `none` where the op has no memory words. -/
def presetProposal (op : StageOp) (w1 w2 : MemWord) : Option (Option Proposal) :=
  match op with
  | .lpf => some (some ⟨w1, none⟩)
  | .pid =>
    some (if -integratorMax ≤ w1.toInt ∧ w1.toInt ≤ integratorMax ∧ -65535 ≤ w2.toInt ∧ w2.toInt ≤ 65535
      then some ⟨w1, some w2⟩ else none)
  | .limit => some (if -32768 ≤ w1.toInt ∧ w1.toInt ≤ 32767 then some ⟨w1, none⟩ else none)
  | _ => none

/-- Proposed words written into a stage's memory, which marks it seeded: only the words the op uses (R47, R20). -/
def StageMem.accept (m : StageMem) (p : Option Proposal) : StageMem :=
  match p with
  | none => { m with seeded := true }
  | some q => { m with word1 := q.word1, word2 := q.word2.getD m.word2, seeded := true }

end Sys2Proof.Machine
end

