-- ==== Sys2Proof/Machine/Ops.lean ====
section
/-! DEFINITION. Reading and writing the loop table and the sample store, the mask rule of R15, and the form in
which a command acts on a running part. -/

namespace Sys2Proof.Machine

/-- The sixteen loops in ascending loop number. -/
def allLoops : List LoopId := [0, 1, 2, 3, 4, 5, 6, 7, 8, 9, 10, 11, 12, 13, 14, 15]

def State.loop (s : State) (i : LoopId) : LoopEntry := s.loops[i]

def State.setLoop (s : State) (i : LoopId) (l : LoopEntry) : State := { s with loops := s.loops.set i l }

def State.modLoop (s : State) (i : LoopId) (f : LoopEntry → LoopEntry) : State := s.setLoop i (f (s.loop i))

def State.slot (s : State) (k : SlotId) : SampleSlot := s.samples[k]

def State.setSlot (s : State) (k : SlotId) (x : SampleSlot) : State := { s with samples := s.samples.set k x }

/-- `f` for every loop, in ascending loop number (R15, R25). -/
def State.eachLoop (s : State) (f : LoopId → State → State) : State := allLoops.foldl (fun t i => f i t) s

/-- Whether a loop mask names a loop (00_scope.md, Loop masks). -/
def names (m : LoopMask) (i : LoopId) : Bool := m.getLsbD i

/-- `f` for every named loop, in ascending loop number (R15). -/
def State.eachNamed (s : State) (m : LoopMask) (f : LoopId → State → State) : State :=
  s.eachLoop fun i t => if names m i then f i t else t

/-- A command acts on a running part; while the part is held in reset it takes no byte and no event occurs
(R193), so the command has no effect (log entry 4). -/
def State.whenRunning (s : State) (f : State → State) : Host.Outcome State Fault Refusal :=
  .next (if s.power = .running then f s else s)

/-! ## Fields of a loop entry -/

/-- The presented primary output: the safe value while the safe-substitution flag is set (R23). -/
def LoopEntry.presented (l : LoopEntry) : Count :=
  match l.safeSub, l.definition with
  | true, some d => d.safeValue
  | _, _ => l.primary

/-- The stage count, 0 while the definition is absent (R61). -/
def LoopEntry.stageCount (l : LoopEntry) : Nat :=
  match l.definition with
  | some d => d.stages.length
  | none => 0

/-- The coefficient words of the stage at index `k` from 0. -/
def bankAt (b : Bank) (k : Nat) : Coefs := b.toList.getD k .zero

/-- The memory of the stage at index `k` from 0. -/
def memAt (m : Vector StageMem 4) (k : Nat) : StageMem := m.toList.getD k .fresh

/-- Statistics raised by 1 (R8). -/
def Statistics.incReleases (t : Statistics) : Statistics := { t with releasesTaken := satInc t.releasesTaken }
def Statistics.incMisses (t : Statistics) : Statistics := { t with misses := satInc t.misses }
def Statistics.incSkips (t : Statistics) : Statistics := { t with skips := satInc t.skips }
def Statistics.incPreemptions (t : Statistics) : Statistics := { t with preemptions := satInc t.preemptions }
def Statistics.incDropped (t : Statistics) : Statistics := { t with outputsDropped := satInc t.outputsDropped }

/-- A completion, and a saturation where it carries the SAT mark (R47, R8). -/
def Statistics.incCompletions (t : Statistics) (sat : Bool) : Statistics :=
  { t with
    completions := satInc t.completions
    saturations := if sat then satInc t.saturations else t.saturations }

/-! ## The mask rule (R15) -/

/-- The mask of the named loops whose check failed with `r`. -/
def failMask (checks : LoopId → Option Result) (m : LoopMask) (r : Result) : LoopMask :=
  allLoops.foldl (fun acc i => if names m i ∧ checks i = some r then acc ||| (1 <<< (i : Nat)) else acc) 0

/-- The refusal of a mask request: the earliest check, in the order BAD_LOOP, MODE, STATE, that some named loop
failed, with the mask of the named loops that failed it; `none` where every named loop passes (R15). -/
def maskRefusal (checks : LoopId → Option Result) (m : LoopMask) : Option (Result × LoopMask) :=
  if failMask checks m .badLoop ≠ 0 then some (.badLoop, failMask checks m .badLoop)
  else if failMask checks m .mode ≠ 0 then some (.mode, failMask checks m .mode)
  else if failMask checks m .state ≠ 0 then some (.state, failMask checks m .state)
  else none

/-! ## Responses' payloads (R173) -/

/-- A refusal: nothing changes, and the response carries the result byte alone (R173). -/
def refuse (s : State) (r : Result) : State × List Byte := (s, [r.toByte])

/-- A refusal of a mask request, with its failing-loop mask (R173, R15). -/
def refuseMask (s : State) (r : Result) (failing : LoopMask) : State × List Byte :=
  (s, r.toByte :: bytes16 failing)

/-- A mask request that has been taken (R15). -/
def acceptMask (s : State) : State × List Byte := (s, Result.ok.toByte :: bytes16 0)

/-- A request that has been taken, with the payload behind its result byte. -/
def accept (s : State) (payload : List Byte) : State × List Byte := (s, Result.ok.toByte :: payload)

/-- A loop mask request of LEN 2: length, field, then the per-loop checks of R15; where every named loop passes,
`act` is carried out for all of them (R15, R173). -/
def State.maskRequest (s : State) (p : List Byte) (check : LoopEntry → Option Result)
    (act : LoopMask → State → State) : State × List Byte :=
  if p.length ≠ 2 then refuseMask s .badLength 0
  else if word16At p 0 = 0 then refuseMask s .badField 0
  else
    match maskRefusal (fun i => check (s.loop i)) (word16At p 0) with
    | some (r, failing) => refuseMask s r failing
    | none => acceptMask (act (word16At p 0) s)

/-- The existence check shared by COMMIT_COEF and MASK_ALARMS (R56, R125). -/
def checkDefined (l : LoopEntry) : Option Result := if l.state = .empty then some .badLoop else none

/-- Every loop's latched, enabled flags decide the level of ALERT_N (R122). -/
def State.refreshAlert (s : State) : State :=
  { s with alertN := if allLoops.any (fun i => (s.loop i).alarms.alerting) then .low else .high }

end Sys2Proof.Machine
end

