-- ==== Sys2Proof/Machine/ReportUnit.lean ====
section
/-! DEFINITION. The report store: admission, merging, sending, and the engine-owed set (R130 to R151). -/

namespace Sys2Proof.Machine

/-! ## Entries -/

/-- The RSN an entry holds (R130). -/
def EntryState.rsn? : EntryState → Option Byte
  | .queued => none
  | .sent r => some r
  | .resend r => some r

def ReportEntry.holdsRsn (e : ReportEntry) : Bool := e.state.rsn?.isSome

/-- A new entry: QUEUED, retry count 0 (R131). -/
def queuedEntry (r : Report) : ReportEntry := ⟨r, .queued, 0⟩

/-- The number of entries holding an RSN (R130). -/
def ReportUnit.holding (u : ReportUnit) : Nat := u.store.countP ReportEntry.holdsRsn

def ReportEntry.queuedOutputOf (i : LoopId) (e : ReportEntry) : Bool :=
  match e.state, e.report with
  | .queued, .output r => r.loop == i
  | _, _ => false

def ReportEntry.queuedAlarmOf (i : LoopId) (e : ReportEntry) : Bool :=
  match e.state, e.report with
  | .queued, .alarm r => r.loop == i
  | _, _ => false

def ReportEntry.queuedDropped (e : ReportEntry) : Bool :=
  match e.state, e.report with
  | .queued, .engine (.reportsDropped _) => true
  | _, _ => false

/-- The first entry with `p` is changed by `f`; the rest keep their places. -/
def updateFirst {α : Type} (p : α → Bool) (f : α → α) : List α → List α
  | [] => []
  | e :: rest => if p e then f e :: rest else e :: updateFirst p f rest

/-- A new report behind all others. -/
def ReportUnit.append (u : ReportUnit) (r : Report) : ReportUnit := { u with store := u.store ++ [queuedEntry r] }

/-! ## Admission (R135 to R137) -/

/-- An OUTPUT report offered: it replaces the QUEUED OUTPUT report of its loop, is appended, or is refused
(`false`) for want of room (R135). -/
def ReportUnit.offerOutput (u : ReportUnit) (r : OutputReport) : ReportUnit × Bool :=
  if u.store.any (ReportEntry.queuedOutputOf r.loop) then
    ({ u with store := updateFirst (ReportEntry.queuedOutputOf r.loop) (fun e => { e with report := .output r }) u.store },
      true)
  else if u.store.length < Config.storeSizeForLoops then (u.append (.output r), true)
  else (u, false)

/-- The merge of an ALARM offer into a QUEUED ALARM report: the union of the newly-raised sets, the offer's
latched set (R136). -/
def mergeAlarm (r : AlarmReport) (e : ReportEntry) : ReportEntry :=
  match e.report with
  | .alarm old => { e with report := .alarm { r with newly := old.newly ||| r.newly } }
  | _ => e

/-- An ALARM report offered: merged, appended, or refused (`false`) (R136). -/
def ReportUnit.offerAlarm (u : ReportUnit) (r : AlarmReport) : ReportUnit × Bool :=
  if u.store.any (ReportEntry.queuedAlarmOf r.loop) then
    ({ u with store := updateFirst (ReportEntry.queuedAlarmOf r.loop) (mergeAlarm r) u.store }, true)
  else if u.store.length < Config.storeSizeForLoops then (u.append (.alarm r), true)
  else (u, false)

/-- Whether two ENGINE events are of the same kind (R137). -/
def EngineEvent.sameKind : EngineEvent → EngineEvent → Bool
  | .safeEntered _, .safeEntered _ => true
  | .runEntered, .runEntered => true
  | .linkWarn, .linkWarn => true
  | .linkOk, .linkOk => true
  | .muteLeft, .muteLeft => true
  | .linkReset, .linkReset => true
  | .reportsDropped _, .reportsDropped _ => true
  | _, _ => false

/-- The content of an owed kind brought up to date: SAFE_ENTERED takes the new cause, REPORTS_DROPPED adds the
new count (R137). -/
def EngineEvent.update (old new : EngineEvent) : EngineEvent :=
  match old, new with
  | .reportsDropped n, .reportsDropped k => .reportsDropped (satAdd n k)
  | _, _ => new

/-- An event placed last in the engine-owed set; a kind already owed is taken from its place (R137). -/
def oweEvent (owed : List EngineEvent) (e : EngineEvent) : List EngineEvent :=
  match owed.find? (fun x => x.sameKind e) with
  | some old => owed.filter (fun x => !x.sameKind e) ++ [old.update e]
  | none => owed ++ [e]

def addDropped (k : BitVec 16) (e : ReportEntry) : ReportEntry :=
  match e.report with
  | .engine (.reportsDropped n) => { e with report := .engine (.reportsDropped (satAdd n k)) }
  | _ => e

/-- An ENGINE event that no QUEUED report takes in: appended, or owed (R137, cases 2 and 3). -/
def ReportUnit.placeEngine (u : ReportUnit) (e : EngineEvent) : ReportUnit :=
  if u.store.length < Config.storeSize then u.append (.engine e)
  else { u with engineOwed := oweEvent u.engineOwed e }

/-- An ENGINE event handed to the report unit (R137). -/
def ReportUnit.offerEngine (u : ReportUnit) (e : EngineEvent) : ReportUnit :=
  match e with
  | .reportsDropped k =>
    if u.store.any ReportEntry.queuedDropped then
      { u with store := updateFirst ReportEntry.queuedDropped (addDropped k) u.store }
    else u.placeEngine e
  | _ => u.placeEngine e

/-- The owed ENGINE events admitted in their order, for as long as the store holds fewer than 24 entries
(R139). -/
def ReportUnit.admitEngineOwed (u : ReportUnit) : List EngineEvent → ReportUnit
  | [] => { u with engineOwed := [] }
  | e :: rest =>
    if u.store.length < Config.storeSize then (u.append (.engine e)).admitEngineOwed rest
    else { u with engineOwed := e :: rest }

/-! ## Sending (R141 to R143) -/

/-- The first entry with `p`, as `f` leaves it, and the list with it changed in its place. -/
def takeFirst {α : Type} (p : α → Bool) (f : α → α) : List α → Option (α × List α)
  | [] => none
  | e :: rest =>
    if p e then some (f e, f e :: rest)
    else match takeFirst p f rest with
      | some (x, l) => some (x, e :: l)
      | none => none

def ReportEntry.isResend (e : ReportEntry) : Bool := match e.state with | .resend _ => true | _ => false

def ReportEntry.isQueued (e : ReportEntry) : Bool := match e.state with | .queued => true | _ => false

/-- A RESEND entry taken again becomes SENT and keeps its RSN and retry count (R142). -/
def ReportEntry.sendAgain (e : ReportEntry) : ReportEntry :=
  match e.state with
  | .resend r => { e with state := .sent r }
  | _ => e

/-- A QUEUED entry taken for its first transmission (R142). -/
def ReportEntry.sendFirst (rsn : Byte) (e : ReportEntry) : ReportEntry :=
  { e with state := .sent rsn, retryCount := 0 }

/-- A stopped retry timer is started with the retry timeout (R142, R143). -/
def ReportUnit.startTimer (u : ReportUnit) : ReportUnit :=
  match u.retryTimer with
  | none => { u with retryTimer := some u.retryTimeout }
  | some _ => u

/-- The first eligible entry taken for transmission: the first RESEND entry if the window is greater than 0,
failing that the first QUEUED entry if fewer entries than the window hold an RSN (R141, R142). -/
def ReportUnit.take (u : ReportUnit) : Option (ReportEntry × ReportUnit) :=
  match (if 0 < u.window then takeFirst ReportEntry.isResend ReportEntry.sendAgain u.store else none) with
  | some (e, store) => some (e, { u with store := store }.startTimer)
  | none =>
    if u.holding < u.window then
      match takeFirst ReportEntry.isQueued (ReportEntry.sendFirst u.nextRsn) u.store with
      | some (e, store) => some (e, { u with store := store, nextRsn := u.nextRsn + 1 }.startTimer)
      | none => none
    else none

/-! ## Expiry and acknowledgement (R144, R146, R149) -/

/-- SENT becomes RESEND (R144, R149). -/
def ReportEntry.goBack (e : ReportEntry) : ReportEntry :=
  match e.state with
  | .sent r => { e with state := .resend r }
  | _ => e

/-- Steps 1 and 2 of an expiry: every SENT entry becomes RESEND, and the first entry's retry count is raised
(R144). -/
def ReportUnit.expire (u : ReportUnit) : ReportUnit :=
  match u.store.map ReportEntry.goBack with
  | [] => { u with store := [] }
  | e :: rest => { u with store := { e with retryCount := e.retryCount + 1 } :: rest }

/-- Whether the first entry's retry count exceeds the retry limit (R144). -/
def ReportUnit.overLimit (u : ReportUnit) : Bool :=
  match u.store with
  | [] => false
  | e :: _ => u.retryLimit < e.retryCount

/-- The entries behind the one that holds RSN `a`; `none` where no entry holds it (R146). -/
def afterRsn (a : Byte) : List ReportEntry → Option (List ReportEntry)
  | [] => none
  | e :: rest => if e.state.rsn? = some a then some rest else afterRsn a rest

/-- The retry timer restarted where RSN-holding entries remain and the link is not MUTE, and stopped otherwise
(R143, R144, R146; in MUTE it is stopped already). -/
def ReportUnit.rearmTimer (u : ReportUnit) (mute : Bool) : ReportUnit :=
  { u with retryTimer := if 0 < u.holding ∧ mute = false then some u.retryTimeout else none }

/-- What a link break does to the report unit (R149). -/
def ReportUnit.linkBreak (u : ReportUnit) : ReportUnit :=
  { u with store := u.store.map ReportEntry.goBack, window := u.defaultWindow, retryTimer := none }

end Sys2Proof.Machine
end

