-- ==== Sys2Proof/Machine/AlarmUnit.lean ====
section
/-! DEFINITION. Offers to the report unit on behalf of the loops, and the alarm unit's latching (R118 to R122,
R24, R133 to R136). -/

namespace Sys2Proof.Machine

/-- An ENGINE event handed to the report unit (R137). -/
def State.offerEngine (s : State) (e : EngineEvent) : State := { s with rep := s.rep.offerEngine e }

/-- An OUTPUT report offered; a refusal raises the loop's outputs-dropped statistic (R135). -/
def State.offerOutput (s : State) (r : OutputReport) : State :=
  match s.rep.offerOutput r with
  | (u, true) => { s with rep := u }
  | (u, false) => { s with rep := u }.modLoop r.loop fun l => { l with stats := l.stats.incDropped }

/-- An OUTPUT report produced: the last-reported value becomes the primary it carries, in every report mode, and
the report is offered (R134, R24). -/
def State.produceOutput (s : State) (r : OutputReport) : State :=
  (s.modLoop r.loop fun l => { l with lastReported := some r.primary }).offerOutput r

/-- The SAFE-marked OUTPUT report of a loop, unless its report mode is NONE (R24). -/
def State.safeOutput (s : State) (i : LoopId) : State :=
  match (s.loop i).definition with
  | none => s
  | some d =>
    if d.reportMode = .silent then s
    else s.produceOutput
      { loop := i
        primary := (s.loop i).presented
        secondary := if d.includeSecondary then some (s.loop i).secondary else none
        releaseTick := s.time.tick
        safe := true, stale := false, sat := false }

/-- An ALARM offer for a loop with a newly-raised set, which a refusal makes the owed set and any other answer
empties (R120, R121). -/
def State.offerAlarm (s : State) (i : LoopId) (newly : FlagSet) : State :=
  match s.rep.offerAlarm ⟨i, (s.loop i).alarms.latched, newly⟩ with
  | (u, true) => { s with rep := u }.modLoop i fun l => { l with alarms := { l.alarms with owed := 0 } }
  | (u, false) => { s with rep := u }.modLoop i fun l => { l with alarms := { l.alarms with owed := newly } }

/-- Newly raised flags of a loop: one ALARM offer carrying them with the owed set, or none where there are
none (R120). -/
def State.raiseAlarm (s : State) (i : LoopId) (newly : FlagSet) : State :=
  if newly = 0 then s else s.offerAlarm i (newly ||| (s.loop i).alarms.owed)

/-- A set of flags handed for a loop in one event: latched, reported where newly raised, and ALERT_N set
(R119, R120, R122). -/
def State.handAlarms (s : State) (i : LoopId) (handed : FlagSet) : State :=
  let newly := (s.loop i).alarms.newlyRaised handed
  ((s.modLoop i fun l => { l with alarms := l.alarms.latch handed }).raiseAlarm i newly).refreshAlert

/-- The owed offer of an alarm-owed loop, for as long as the store holds fewer than 22 entries (R139). -/
def State.admitAlarmOwed (s : State) : State :=
  s.eachLoop fun i t =>
    if (t.loop i).alarms.owed ≠ 0 ∧ t.rep.store.length < Config.storeSizeForLoops then
      t.offerAlarm i (t.loop i).alarms.owed
    else t

/-- The owed reports admitted after entries have left the store (R139). -/
def State.admitOwed (s : State) : State :=
  { s with rep := s.rep.admitEngineOwed s.rep.engineOwed }.admitAlarmOwed

/-- Whether a completion with the new primary produces a report, and the DIVIDE counter it leaves (R133). -/
def reportDecision (d : Definition) (l : LoopEntry) (primary : Count) : Bool × BitVec 8 :=
  match d.reportMode with
  | .every => (true, l.divideCounter)
  | .divide =>
    if l.divideCounter.toNat + 1 = d.reportParam.toNat then (true, 0) else (false, l.divideCounter + 1)
  | .change =>
    match l.lastReported with
    | none => (true, l.divideCounter)
    | some v => ((primary.toInt - v.toInt).natAbs ≥ d.reportParam.toNat, l.divideCounter)
  | .silent => (false, l.divideCounter)

/-- The OUTPUT report of a completion, decided by the loop's report mode (R133, R134, R48). -/
def State.completionOutput (s : State) (i : LoopId) (d : Definition) (x : Instance) (m : Marks) : State :=
  let l := s.loop i
  let (produced, counter) := reportDecision d l l.primary
  let t := s.modLoop i fun l => { l with divideCounter := counter }
  if produced then
    t.produceOutput
      { loop := i
        primary := l.presented
        secondary := if d.includeSecondary then some l.secondary else none
        releaseTick := x.releaseTick
        safe := false, stale := m.stale, sat := m.sat }
  else t

end Sys2Proof.Machine
end

