-- ==== Sys2Proof/Machine/CompUnit.lean ====
section
/-! DEFINITION. The computation unit: the due queue, removal and abandonment, and the choice of what runs next
(R97 to R117). -/

namespace Sys2Proof.Machine

/-! ## The due queue (R99) -/

/-- The age of an entry at a comparison, modulo 2^32 (R99). -/
def age (now released : Tick) : Nat := (now - released).toNat

/-- Whether `e` stands ahead of `x` by priority, age and loop number (R99). -/
def aheadOf (now : Tick) (e x : Instance) : Bool :=
  e.priority < x.priority
    || (e.priority == x.priority
      && (age now x.releaseTick < age now e.releaseTick
        || (age now e.releaseTick == age now x.releaseTick && e.loop < x.loop)))

/-- `x` inserted directly behind the last entry that stands ahead of it (R99). -/
def insertDue (now : Tick) (x : Instance) : List Instance → List Instance
  | [] => [x]
  | e :: rest =>
    if (e :: rest).any (fun y => aheadOf now y x) then e :: insertDue now x rest else x :: e :: rest

/-- An insertion; a unit that was IDLE enters CHOICE in that event (R102, R110). -/
def CompUnit.insert (u : CompUnit) (now : Tick) (x : Instance) : CompUnit :=
  { u with
    due := insertDue now x u.due
    state := if u.state = .idle then .choice else u.state }

/-! ## Removal and abandonment (R111 to R113) -/

/-- The instances of a list that are not of loop `i`, in their order. -/
def without (i : LoopId) (l : List Instance) : List Instance := l.filter fun x => x.loop != i

/-- The running instance of loop `i` is abandoned: in STAGE it gets the abandon mark, at its boundary it is
dropped at once (R113). -/
def CompUnit.abandon (u : CompUnit) (i : LoopId) : CompUnit :=
  match u.running with
  | none => u
  | some x =>
    if x.loop = i then
      { u with running := if u.state = .stage then some { x with abandoned := true } else none }
    else u

/-- The outstanding instance of a loop ended, according to where it stands (R10, R111 to R113). -/
def CompUnit.endInstance (u : CompUnit) (i : LoopId) : InstanceStatus → CompUnit
  | .noInstance => u
  | .due => { u with due := without i u.due }
  | .running => u.abandon i
  | .suspended => { u with stack := without i u.stack }

/-- SAFE entry: the queue and the stack are emptied and the running instance is abandoned (R115). -/
def CompUnit.flush (u : CompUnit) : CompUnit :=
  { u with
    due := []
    stack := []
    running := if u.state = .stage then u.running.map (fun x => { x with abandoned := true }) else none }

/-- The loop table ends a loop's outstanding instance and sets its instance status to NONE in the same event
(R10). -/
def State.endInstance (s : State) (i : LoopId) : State :=
  { s with cu := s.cu.endInstance i (s.loop i).status }.modLoop i fun l => { l with status := .noInstance }

/-! ## The choice (R105 to R107) -/

/-- Whether every release due at the current tick has been taken: no loop holds a next-release tick equal to the
tick count (R105). -/
def State.noneDue (s : State) : Bool := allLoops.all fun i => (s.loop i).nextRelease != some s.time.tick

/-- The instance `x` begins its next stage in the running slot; its loop's status becomes RUNNING (R103, R106). -/
def State.beginStage (s : State) (x : Instance) (due stack : List Instance) : State :=
  { s with cu := ⟨.stage, due, some x, stack⟩ }.modLoop x.loop fun l => { l with status := .running }

/-- A choice with the running slot empty (R106). -/
def State.chooseEmpty (s : State) : State :=
  match s.cu.due, s.cu.stack with
  | [], [] => { s with cu := { s.cu with state := .idle } }
  | b :: q, [] => s.beginStage b q []
  | [], a :: r => s.beginStage a [] r
  | b :: q, a :: r =>
    if b.priority < a.priority then s.beginStage b q (a :: r) else s.beginStage a (b :: q) r

/-- A choice at the stage boundary of `x`: preemption by a strictly more urgent due head while the stack has
room, and otherwise `x` continues (R107). -/
def State.chooseAtBoundary (s : State) (x : Instance) : State :=
  match s.cu.due with
  | b :: q =>
    if b.priority < x.priority ∧ s.cu.stack.length < Config.stackDepth then
      (s.modLoop x.loop fun l => { l with status := .suspended, stats := l.stats.incPreemptions }).beginStage
        b q (x :: s.cu.stack)
    else s.beginStage x (b :: q) s.cu.stack
  | [] => s.beginStage x [] s.cu.stack

/-- A pending choice is made at the first event at which no release due at the current tick remains (R105). -/
def State.settleChoice (s : State) : State :=
  if s.cu.state = .choice ∧ s.noneDue = true then
    match s.cu.running with
    | none => s.chooseEmpty
    | some x => s.chooseAtBoundary x
  else s

/-- The running slot is emptied and the unit enters CHOICE (R104). -/
def State.dropRunning (s : State) : State := { s with cu := { s.cu with running := none, state := .choice } }

end Sys2Proof.Machine
end

