-- ==== Sys2Proof/Machine/LoopTable.lean ====
section
/-! DEFINITION. Loop-level state changes made by more than one command: the fault, the arming point, the SAFE
hold, the entry to RUN, and an instance's completion (R22 to R27, R47, R48, R82, R83). -/

namespace Sys2Proof.Machine

/-- The first tick after the arming tick whose count leaves remainder offset when divided by period, the ticks
taken in the order in which they occur, across the wrap (R83). -/
def firstRelease (now : Tick) (period offset : BitVec 16) : Tick :=
  let next := now.toNat + 1
  let candidate := next + (offset.toNat + period.toNat - next % period.toNat) % period.toNat
  if candidate < 2 ^ 32 then BitVec.ofNat 32 candidate else BitVec.ofNat 32 offset.toNat

/-- The next-release tick an arming point gives a loop (R82, R83). -/
def LoopEntry.armingPoint (l : LoopEntry) (now : Tick) : Option Tick :=
  l.definition.map fun d => firstRelease now d.period d.offset

/-- Runtime memory, output flags, miss count and report bookkeeping started afresh, as DEFINE_LOOP and ARM_LOOP
do (R14, R16). -/
def LoopEntry.startAfresh (l : LoopEntry) : LoopEntry :=
  { l with
    primary := 0, secondary := 0, mem := memFresh
    outputValid := false, safeSub := false
    missCount := 0, lastReported := none, divideCounter := 0 }

/-- Entry to FAULTED, with the flags `handed` beside FAULT: the outstanding instance ends, the loop presents its
safe value, its output is no longer valid; the flags are latched together, and the SAFE-marked OUTPUT report
follows them (R27, R24, R87). -/
def State.faultLoop (s : State) (i : LoopId) (handed : FlagSet) : State :=
  (((s.endInstance i).modLoop i fun l =>
      { l with state := .faulted, nextRelease := none, safeSub := true, outputValid := false }).handAlarms i
    (handed ||| flagFault)).safeOutput i

/-- A loop's entry to HELD: `f` makes the change, and the SAFE-marked OUTPUT report follows where the presented
primary output differs after it (R17, R24, R25). -/
def State.enterHeld (s : State) (i : LoopId) (f : LoopEntry → LoopEntry) : State :=
  let t := s.modLoop i f
  if (t.loop i).presented ≠ (s.loop i).presented then t.safeOutput i else t

/-- What SAFE entry does to one loop: an ACTIVE loop becomes HELD(SAFE), an ARMED loop loses its next-release
tick (R25). -/
def State.holdForSafe (s : State) (i : LoopId) : State :=
  match (s.loop i).state with
  | .active =>
    s.enterHeld i fun l =>
      { l with state := .held .safe, status := .noInstance, nextRelease := none, safeSub := true }
  | .armed => s.modLoop i fun l => { l with nextRelease := none }
  | _ => s

/-- A claim to enter SAFE: in RUN it makes the entry, its effects in the order of R183; in SAFE it changes
nothing (R183, R25, R115). -/
def State.claimSafe (s : State) (cause : SafeCause) : State :=
  match s.ctl.mode with
  | .safe => s
  | .run =>
    let s1 := { s with ctl := { s.ctl with mode := .safe, safeCause := cause, safeN := .low } }
    let s2 := (s1.offerEngine (.safeEntered cause)).eachLoop fun i t => t.holdForSafe i
    { s2 with cu := s2.cu.flush }.settleChoice

/-- What RUN entry does to one loop: HELD(SAFE) becomes ARMED, and every ARMED loop takes the event as its arming
point (R26). -/
def LoopEntry.enterRun (now : Tick) (l : LoopEntry) : LoopEntry :=
  match l.state with
  | .held .safe => { l with state := .armed, missCount := 0, nextRelease := l.armingPoint now }
  | .armed => { l with nextRelease := l.armingPoint now }
  | _ => l

/-- Entry to RUN (R186, R26). -/
def State.enterRun (s : State) : State :=
  let s1 := { s with ctl := { s.ctl with mode := .run, safeN := .high } }
  (s1.offerEngine .runEntered).eachLoop fun i t => t.modLoop i (LoopEntry.enterRun s.time.tick)

/-- The runtime memory a completion writes: every proposal, and every stage of the program seeded (R47). -/
def memAfter (mem : Vector StageMem 4) (proposals : Vector (Option Proposal) 4) (stageCount : Nat) :
    Vector StageMem 4 :=
  mem.mapIdx fun k m => if k < stageCount then m.accept (proposals.toList.getD k none) else m

/-- The final a clamped to out_min..out_max (R47). -/
def clampOutput (d : Definition) (a : Count) : Count := toCount (clamp d.outMin.toInt d.outMax.toInt a.toInt)

/-- An instance's marks after the output clamp (R47). -/
def finalMarks (d : Definition) (x : Instance) : Marks :=
  { x.marks with sat := x.marks.sat || clampMarks d.outMin.toInt d.outMax.toInt x.a.toInt }

/-- What a completion writes into the loop entry (R47). -/
def LoopEntry.complete (l : LoopEntry) (d : Definition) (x : Instance) : LoopEntry :=
  { l with
    primary := clampOutput d x.a
    secondary := x.b
    outputValid := true
    safeSub := false
    mem := memAfter l.mem x.proposals d.stages.length
    status := .noInstance
    stats := l.stats.incCompletions (finalMarks d x).sat }

/-- A completion: the results are written, the marks handed to the alarm unit, and the OUTPUT report decided
and offered (R47, R48). -/
def State.complete (s : State) (d : Definition) (x : Instance) : State :=
  ((s.modLoop x.loop fun l => l.complete d x).handAlarms x.loop (finalMarks d x).flags).completionOutput
    x.loop d x (finalMarks d x)

/-- A stage's results entered in the instance record (R30, R103). -/
def Instance.enter (x : Instance) (r : StageResult) : Instance :=
  { x with
    a := r.a
    b := r.b
    nextStage := x.nextStage + 1
    proposals := x.proposals.setIfInBounds (x.nextStage - 1) r.proposal
    marks := { x.marks with sat := x.marks.sat || r.sat, arith := x.marks.arith || r.arith } }

end Sys2Proof.Machine
end

