-- ==== Sys2Proof/Machine/LinkUnit.lean ====
section
/-! DEFINITION. The link error count and the link state, the transmitter's choice, the receiver's errors, the
retry timer's expiry, acknowledgements, and the supervision timer (R141 to R149, R157 to R169, R187). -/

namespace Sys2Proof.Machine

/-! ## The link error count and the link state (R163 to R165) -/

/-- The link state judged from the state before a change and the new LEC (R164). -/
def judgeLink (before : LinkState) (lec : BitVec 8) : LinkState :=
  match before with
  | .mute => if lec.toNat ≤ 63 then .ok else .mute
  | _ => if lec.toNat ≤ 63 then .ok else if lec.toNat ≤ 127 then .warn else .mute

/-- The retry timer is restarted at the link's exit from MUTE while RSN-holding entries remain (R143, R148). -/
def ReportUnit.muteExit (u : ReportUnit) : ReportUnit :=
  if 0 < u.holding then { u with retryTimer := some u.retryTimeout } else u

/-- The LEC changed to `lec`, the link state judged, and what the change hands on (R164, R165, R148). -/
def State.changeLec (s : State) (lec : BitVec 8) : State :=
  let before := s.link.state
  let after := judgeLink before lec
  let t := { s with link := { s.link with lec := lec, state := after } }
  match before, after with
  | .ok, .warn => t.offerEngine .linkWarn
  | .warn, .ok => t.offerEngine .linkOk
  | .mute, .ok =>
    let u := t.offerEngine .muteLeft
    { u with rep := u.rep.muteExit }
  | .ok, .mute => { t with rep := { t.rep with retryTimer := none } }.claimSafe .linkMute
  | .warn, .mute => { t with rep := { t.rep with retryTimer := none } }.claimSafe .linkMute
  | _, _ => t

/-- A raise of the LEC, which stops at 255 (R163). -/
def State.raiseLec (s : State) (n : Nat) : State :=
  s.changeLec (BitVec.ofNat 8 (min 255 (s.link.lec.toNat + n)))

/-- A good frame lowers the LEC by 1, not below 0 (R163). -/
def State.lowerLec (s : State) : State := s.changeLec (BitVec.ofNat 8 (s.link.lec.toNat - 1))

/-! ## The transmitter (R161, R175) -/

/-- The transmitter takes the oldest response (R160, R161). -/
def State.startResponse (s : State) (r : Response) (rest : List Response) : State :=
  { s with
    link := { s.link with
      responses := rest
      tx := .sending (frameBytes r.kind r.tag r.payload) r.ofReset } }

/-- The frame of a report entry: the RSN travels in TAG (R142, R175). -/
def ReportEntry.frame (e : ReportEntry) : List Byte :=
  frameBytes e.report.kind (e.state.rsn?.getD 0) e.report.payload

def LinkUnit.isMute (l : LinkUnit) : Bool := l.state == .mute

/-- Whether the transmitter may ask the report unit for a report: the start-up hold does not stand and the link
is not MUTE (R161, R194, R141, R148). -/
def LinkUnit.mayReport (l : LinkUnit) : Bool := !l.startUpHold && !l.isMute

/-- The entry the report unit offers the transmitter, with the report unit after its taking (R141, R142). -/
def State.reportOffered (s : State) : Option (ReportEntry × ReportUnit) :=
  if s.link.mayReport then s.rep.take else none

/-- The transmitter asks for a report and takes the one offered, if any (R161, R142). -/
def State.startReport (s : State) : State :=
  match s.reportOffered with
  | none => s
  | some (e, u) => { s with rep := u, link := { s.link with tx := .sending e.frame false } }

/-- The transmitter's choice while it is idle: the oldest response, and otherwise a report (R161). -/
def State.transmit (s : State) : State :=
  match s.link.tx, s.link.responses with
  | .sending _ _, _ => s
  | .idle, r :: rest => s.startResponse r rest
  | .idle, [] => s.startReport

/-- Whether a response and an eligible report both wait for an idle transmitter. -/
def State.contested (s : State) : Bool :=
  s.link.tx == .idle && !s.link.responses.isEmpty && s.reportOffered.isSome

/-- The transmitter's choice in an event that has appended a response: where the event left an eligible report as
well, either may have been taken first (R161; free value, log entry 2). -/
def State.transmitAfterResponse (s : State) : State :=
  if s.contested then
    let t := { s with choices := s.choices + 1 }
    if Config.reportTakenFirst s.choices then t.startReport else t.transmit
  else s.transmit

/-! ## Receiver events (R154 to R158) -/

/-- The receiver goes to HUNT with the gap timer stopped and the partial frame empty (R154). -/
def LinkUnit.toHunt (l : LinkUnit) : LinkUnit := { l with rx := .hunt, gapTimer := .stopped }

def State.toHunt (s : State) : State := { s with link := s.link.toHunt }

def State.modCounters (s : State) (f : LinkCounters → LinkCounters) : State :=
  { s with link := { s.link with counters := f s.link.counters } }

/-- A CRC error (R156). -/
def State.crcErrorEvent (s : State) : State :=
  ((s.toHunt.modCounters fun c => { c with crcErrors := satInc c.crcErrors }).raiseLec 8).transmit

/-- A length error (R155). -/
def State.lengthErrorEvent (s : State) : State :=
  ((s.toHunt.modCounters fun c => { c with lengthErrors := satInc c.lengthErrors }).raiseLec 8).transmit

/-- A gap error (R157). -/
def State.gapErrorEvent (s : State) : State :=
  ((s.toHunt.modCounters fun c => { c with gapErrors := satInc c.gapErrors }).raiseLec 4).transmit

/-- A framing error: a gap error inside a frame, and nothing in HUNT (R157). -/
def State.framingErrorEvent (s : State) : State :=
  if s.link.rx = .hunt then s else s.gapErrorEvent

/-- The receiver takes bytes: the part runs and RXD is not in a low period it waits out (R157, R167). -/
def State.takesBytes (s : State) : Bool := s.link.rxd == .taking

/-! ## Supervision (R187) -/

/-- The supervision timer restarted with the full interval, or stopped while the interval is 0 (R187). -/
def ModeController.restartSupervision (c : ModeController) : ModeController :=
  { c with supTimer := if c.supInterval = 0 then none else some c.supInterval }

def State.restartSupervision (s : State) : State := { s with ctl := s.ctl.restartSupervision }

/-! ## Acknowledgement and expiry (R144 to R146) -/

/-- A REPORT_ACK the report unit takes: the entries up to RSN `a` are removed, the window becomes `w`, and where
any entry was removed the owed reports are admitted and the retry timer is restarted or stopped (R146). -/
def State.acknowledge (s : State) (a : Byte) (w : Nat) : State :=
  match afterRsn a s.rep.store with
  | none => { s with rep := { s.rep with window := w } }
  | some rest =>
    let t := { s with rep := { s.rep with store := rest, window := w } }.admitOwed
    { t with rep := t.rep.rearmTimer t.link.isMute }

/-- A good frame of kind REPORT_ACK passed on: ignored whole, and a protocol error, where its LEN is not 2 or
its window is greater than 16 (R158, R146). -/
def State.passAck (s : State) (p : List Byte) : State :=
  if p.length ≠ 2 ∨ 16 < (byteAt p 1).toNat then
    s.modCounters fun c => { c with protocolErrors := satInc c.protocolErrors }
  else s.acknowledge (byteAt p 0) (byteAt p 1).toNat

/-- A retry-limit drop: the first entry is removed, the drop counted, +8 claimed on the LEC, the owed reports
admitted, and REPORTS_DROPPED offered, in this order (R145). -/
def State.dropFirst (s : State) : State :=
  let t := { s with rep := { s.rep with store := s.rep.store.tail, droppedCount := satInc s.rep.droppedCount } }
  ((t.raiseLec 8).admitOwed).offerEngine (.reportsDropped 1)

/-- The expiry of the running retry timer (R144). -/
def State.retryExpiry (s : State) : State :=
  let t := { s with rep := s.rep.expire }
  let u := if t.rep.overLimit then t.dropFirst else t
  { u with rep := u.rep.rearmTimer u.link.isMute }.transmit

end Sys2Proof.Machine
end

