-- ==== Sys2Proof/Machine/Releases.lean ====
section
/-! DEFINITION. The tick and the release of a loop: the miss check, the stale check and the taken release
(R28, R58, R69 to R90), and the end of a stage (R103, R104). -/

namespace Sys2Proof.Machine

/-! ## Bindings at a release (R28, R69 to R74) -/

/-- The value a binding supplies (R28). -/
def State.bindingValue (s : State) : Binding → Count
  | .zero => 0
  | .sample k => (s.slot k).value
  | .primary n => (s.loop n).presented
  | .secondary n => (s.loop n).secondary

/-- The value of an input that may be absent; an absent input B supplies 0 (R28). -/
def State.inputValue (s : State) : Option Binding → Count
  | none => 0
  | some b => s.bindingValue b

/-- Whether a binding is stale at a release at the current tick (R73, R71, R74). -/
def State.bindingStale (s : State) (maxAge : BitVec 16) : Binding → Bool
  | .zero => false
  | .sample k =>
    !(s.slot k).written
      || (0 < maxAge.toNat && maxAge.toNat < (s.time.tick - (s.slot k).stamp).toNat)
  | .primary n => !(s.loop n).outputValid
  | .secondary n => !(s.loop n).outputValid

/-- Whether a release finds a stale input (R74). -/
def State.inputsStale (s : State) (d : Definition) : Bool :=
  s.bindingStale d.maxAge d.inputA
    || (match d.inputB with
      | none => false
      | some b => s.bindingStale d.maxAge b)

/-! ## The release (R84 to R90) -/

/-- The next-release tick advanced by one period, modulo 2^32 (R84). -/
def LoopEntry.advance (l : LoopEntry) (d : Definition) : LoopEntry :=
  { l with nextRelease := l.nextRelease.map fun t => t + d.period.setWidth 32 }

/-- A release that finds an outstanding instance (R86, R87). -/
def State.missRelease (s : State) (i : LoopId) (d : Definition) : State :=
  let t := s.modLoop i fun l =>
    { l.advance d with stats := l.stats.incMisses, missCount := satInc l.missCount }
  if d.missLimit ≠ 0 ∧ (t.loop i).missCount = d.missLimit then t.faultLoop i flagMiss
  else t.handAlarms i flagMiss

/-- A stale release under policy SKIP (R76). -/
def State.skipRelease (s : State) (i : LoopId) (d : Definition) : State :=
  (s.modLoop i fun l => { l.advance d with stats := l.stats.incSkips }).handAlarms i flagStale

/-- A pending commit made active (R58). -/
def LoopEntry.commitAtRelease (l : LoopEntry) : LoopEntry :=
  if l.commitPending then { l with activeBank := l.pendingBank, commitPending := false } else l

/-- The instance a taken release creates, latched from the bindings as they stand (R28, R89, R97). -/
def State.newInstance (s : State) (i : LoopId) (d : Definition) (stale : Bool) : Instance where
  loop := i
  releaseTick := s.time.tick
  priority := d.priority
  a := s.bindingValue d.inputA
  b := s.inputValue d.inputB
  nextStage := 1
  proposals := Vector.replicate 4 none
  marks := ⟨false, stale, false⟩
  abandoned := false

/-- What a taken release does to the loop entry (R89, R58, R84). -/
def LoopEntry.taken (l : LoopEntry) (d : Definition) : LoopEntry :=
  { l.commitAtRelease.advance d with
    stats := l.stats.incReleases, missCount := 0, status := .due }

/-- A taken release; the STALE flag is latched where a stale input is used (R89, R75). -/
def State.takeRelease (s : State) (i : LoopId) (d : Definition) (stale : Bool) : State :=
  let t := s.modLoop i fun l => l.taken d
  let u := { t with cu := t.cu.insert s.time.tick (s.newInstance i d stale) }
  if stale then u.handAlarms i flagStale else u

/-- The three steps of a release that has fallen due (R85). -/
def State.releaseSteps (s : State) (i : LoopId) (d : Definition) : State :=
  if (s.loop i).status ≠ .noInstance then s.missRelease i d
  else if s.inputsStale d then
    match d.stalePolicy with
    | .use => s.takeRelease i d true
    | .skip => s.skipRelease i d
    | .fault => s.faultLoop i flagStale
  else s.takeRelease i d false

/-- The definition of a loop whose release is due: it holds a next-release tick equal to the tick count, and it
is ACTIVE, or ARMED with the engine in RUN (R85). -/
def State.dueRelease (s : State) (i : LoopId) : Option Definition :=
  if (s.loop i).nextRelease = some s.time.tick
      ∧ ((s.loop i).state = .active ∨ ((s.loop i).state = .armed ∧ s.ctl.mode = .run)) then
    (s.loop i).definition
  else none

/-- The release of a loop, with the choice and the transmitter's choice that follow in its event; without a
release due there is none (R85, R105, R161). -/
def State.releaseEvent (s : State) (i : LoopId) : State :=
  match s.dueRelease i with
  | none => s
  | some d => ((s.modLoop i fun l => { l with state := .active }).releaseSteps i d).settleChoice.transmit

/-! ## The tick (R79, R80) -/

/-- The tick event: the count rises by 1, and the interval that begins is of the tick length now set
(R79, R80, R105). -/
def State.tickEvent (s : State) : State :=
  { s with
    time := { s.time with tick := s.time.tick + 1, intervalLength := s.time.tickLength } }.settleChoice

/-- The releases still due are taken before the next tick event (R85; log entry 6). -/
def State.takeDueReleases (s : State) : State := s.eachLoop fun i t => t.releaseEvent i

/-! ## The end of a stage (R103, R104) -/

/-- A stage that has run to its end, with its instance not abandoned: cases 2, 3 and 4 of R104. -/
def State.stageEnded (s : State) (x : Instance) (d : Definition) (st : StageDesc) : State :=
  let l := s.loop x.loop
  let r := runStage st (bankAt l.activeBank (x.nextStage - 1)) (memAt l.mem (x.nextStage - 1)) x.a x.b
  if r.arith = true ∧ d.arithPolicy = .fault then s.dropRunning.faultLoop x.loop flagArith
  else if d.stages.length ≤ x.nextStage then s.dropRunning.complete d (x.enter r)
  else { s with cu := { s.cu with running := some (x.enter r), state := .choice } }

/-- The stage in progress and its instance's definition. A running instance always has one (R9); without one the
instance is dropped. -/
def State.runningStage (s : State) (x : Instance) : Option (Definition × StageDesc) :=
  match (s.loop x.loop).definition with
  | none => none
  | some d =>
    match d.stages[x.nextStage - 1]? with
    | none => none
    | some st => some (d, st)

/-- A stage completion, with the choice and the transmitter's choice that follow in its event (R104, R105,
R161). Without a stage in progress there is none (R102). -/
def State.stageCompletion (s : State) : State :=
  match s.cu.state, s.cu.running with
  | .stage, some x =>
    let t :=
      if x.abandoned then s.dropRunning
      else
        match s.runningStage x with
        | none => s.dropRunning
        | some (d, st) => s.stageEnded x d st
    t.settleChoice.transmit
  | _, _ => s

end Sys2Proof.Machine
end

