-- ==== Sys2Proof/Machine/Reset.lean ====
section
/-! DEFINITION. The full reset and start-up (R189, R191 to R194). -/

namespace Sys2Proof.Machine

/-- A full reset: every block returns to its reset values, the line rate is sampled afresh, and the reset cause
record is written (R193). The model's own queue of commands and count of choices stay. -/
def State.fullReset (s : State) (cause : ResetCause) (powerOnFlag : Bool) (straps : Straps) : State :=
  { State.reset with
    ctl := .reset cause powerOnFlag
    link := .reset straps
    choices := s.choices
    pending := s.pending }

/-- Start-up: the BOOT report is admitted into the empty store, and the start-up hold stands; a low level on RXD
counts as if it began here, and the receiver takes no byte from it (R138, R193, R194, R167). -/
def State.startUp (s : State) (rxdLow : Bool) : State :=
  { s with
    power := .running
    rep := s.rep.append (.boot s.ctl.resetCause s.ctl.powerOnFlag Config.revision)
    link := { s.link with startUpHold := true, rxd := if rxdLow then .startUpLow else .taking } }

/-- The full reset a RESET request brings, with its start-up in the same event (R191, R193). -/
def State.commandReset (s : State) (straps : Straps) (rxdLow : Bool) : State :=
  (s.fullReset .command s.ctl.powerOnFlag straps).startUp rxdLow

end Sys2Proof.Machine
end

