-- ==== Sys2Proof/Machine/EventRows.lean ====
section
/-! DEFINITION. The meanings of the rows of the engine's own events: resets and start-up, ticks, releases, stage
completions and timer expiries. -/

namespace Sys2Proof.Machine

/-- POWER_ON_RESET: the full reset with cause POWER_ON and the power-on flag set; the part stays in reset until
START_UP (R189, R193). -/
def execPowerOnReset (straps : Straps) (s : State) : Host.Outcome State Fault Refusal :=
  .next (s.fullReset .powerOn true straps)

/-- The reset cause a low level on RST_N records: where it overlaps a power-on reset they make one full reset,
which records POWER_ON (R189). -/
def State.pinCause (s : State) : ResetCause :=
  if s.power = .inReset ∧ s.ctl.resetCause = .powerOn then .powerOn else .pin

/-- PIN_RESET: the full reset with cause PIN and the power-on flag kept (R189, R193). -/
def execPinReset (straps : Straps) (s : State) : Host.Outcome State Fault Refusal :=
  .next (s.fullReset s.pinCause s.ctl.powerOnFlag straps)

/-- START_UP: the event at which the reset ends; a part that is not in reset has none (R193). -/
def execStartUp (rxdLow : Bool) (s : State) : Host.Outcome State Fault Refusal :=
  .next (if s.power = .inReset then s.startUp rxdLow else s)

/-- TICK: the tick event, ahead of which every release due at the tick before has been taken (R80, R85; log
entry 6). -/
def execTick (s : State) : Host.Outcome State Fault Refusal :=
  s.whenRunning fun t => t.takeDueReleases.tickEvent

/-- RELEASE of a loop (R85). -/
def execRelease (loop : LoopId) (s : State) : Host.Outcome State Fault Refusal :=
  s.whenRunning fun t => t.releaseEvent loop

/-- STAGE_COMPLETION (R104). -/
def execStageCompletion (s : State) : Host.Outcome State Fault Refusal :=
  s.whenRunning State.stageCompletion

/-- RETRY_TIMER_EXPIRY: a stopped timer does not expire (R144). -/
def execRetryTimerExpiry (s : State) : Host.Outcome State Fault Refusal :=
  s.whenRunning fun t => if t.rep.retryTimer.isSome then t.retryExpiry else t

/-- SUPERVISION_EXPIRY: a claim with cause SUPERVISION, and the timer restarted; a stopped timer does not expire
(R188). -/
def execSupervisionExpiry (s : State) : Host.Outcome State Fault Refusal :=
  s.whenRunning fun t =>
    if t.ctl.supTimer.isSome then (t.claimSafe .supervision).restartSupervision.transmit else t

end Sys2Proof.Machine
end

