-- ==== Sys2Proof/Machine/AlarmRequests.lean ====
section
/-! DEFINITION. The alarm requests as the dispatcher carries them out (R123 to R125). -/

namespace Sys2Proof.Machine

def AlarmRecord.toBytes (r : AlarmRecord) : List Byte := [flagsByte r.latched, flagsByte r.mask, flagsByte r.owed]

/-- READ_ALARMS (R123). -/
def reqReadAlarms (p : List Byte) (s : State) : State × List Byte :=
  if p.length ≠ 0 then refuse s .badLength
  else accept s (s.alertN.toByte :: allLoops.flatMap fun i => (s.loop i).alarms.toBytes)

/-- CLEAR_ALARMS: taken for loops in every state (R124). -/
def reqClearAlarms (p : List Byte) (s : State) : State × List Byte :=
  if p.length ≠ 3 then refuseMask s .badLength 0
  else
    match flagsOfByte (byteAt p 2) with
    | none => refuseMask s .badField 0
    | some named =>
      if word16At p 0 = 0 ∨ named = 0 then refuseMask s .badField 0
      else acceptMask
        (s.eachNamed (word16At p 0) fun i t =>
          t.modLoop i fun l => { l with alarms := l.alarms.clear named }).refreshAlert

/-- What MASK_ALARMS does to one loop: the mask becomes the new one, and the latched flags it newly enables are
offered with the remaining owed set (R125, R120). -/
def State.remask (s : State) (i : LoopId) (newMask : FlagSet) : State :=
  (s.modLoop i fun l => { l with alarms := l.alarms.remask newMask }).raiseAlarm i
    ((s.loop i).alarms.newlyEnabled newMask)

/-- MASK_ALARMS (R125). -/
def reqMaskAlarms (p : List Byte) (s : State) : State × List Byte :=
  if p.length ≠ 3 then refuseMask s .badLength 0
  else
    match flagsOfByte (byteAt p 2) with
    | none => refuseMask s .badField 0
    | some newMask =>
      if word16At p 0 = 0 then refuseMask s .badField 0
      else
        match maskRefusal (fun i => checkDefined (s.loop i)) (word16At p 0) with
        | some (r, failing) => refuseMask s r failing
        | none => acceptMask (s.eachNamed (word16At p 0) fun i t => t.remask i newMask).refreshAlert

end Sys2Proof.Machine
end

