-- ==== Sys2Proof/Machine/CoefRequests.lean ====
section
/-! DEFINITION. The coefficient requests as the dispatcher carries them out (R52 to R61). -/

namespace Sys2Proof.Machine

/-! ## LOAD_COEF (R54, R55) -/

/-- The checks of R54 that depend on the definition: the stage index within the program, and words its op
accepts. `index` counts from 1. -/
def loadLegal (d : Definition) (index : Nat) (c : Coefs) : Bool :=
  match d.stages[index - 1]? with
  | none => false
  | some st => coefsLegal st.op c

/-- The named stage's four words written into the pending bank (R55). -/
def LoopEntry.loadCoef (l : LoopEntry) (index : Nat) (c : Coefs) : LoopEntry :=
  { l with pendingBank := l.pendingBank.setIfInBounds (index - 1) c }

/-- LOAD_COEF (R54, R55). -/
def reqLoadCoef (p : List Byte) (s : State) : State × List Byte :=
  if p.length ≠ 10 then refuse s .badLength
  else
    let index := (byteAt p 1).toNat
    let c := coefsAt p 2
    match loopOfByte (byteAt p 0) with
    | none => refuse s .badField
    | some i =>
      if index = 0 ∨ 4 < index then refuse s .badField
      else
        match (s.loop i).definition with
        | none => refuse s .badLoop
        | some d =>
          if loadLegal d index c = false then refuse s .badField
          else if (s.loop i).commitPending then refuse s .pending
          else accept (s.modLoop i fun l => l.loadCoef index c) []

/-! ## COMMIT_COEF (R56 to R59) -/

/-- APPLY on one loop: an ACTIVE loop gets the commit-pending flag, any other its pending bank made active at
once and the flag cleared (R57). -/
def LoopEntry.apply (l : LoopEntry) : LoopEntry :=
  match l.state with
  | .active => { l with commitPending := true }
  | _ => { l with activeBank := l.pendingBank, commitPending := false }

/-- DISCARD on one loop (R59). -/
def LoopEntry.discard (l : LoopEntry) : LoopEntry :=
  { l with pendingBank := l.activeBank, commitPending := false }

/-- The checks of COMMIT_COEF behind its action byte, and its effect on every named loop (R56). -/
def State.commit (s : State) (m : LoopMask) (f : LoopEntry → LoopEntry) : State × List Byte :=
  if m = 0 then refuseMask s .badField 0
  else
    match maskRefusal (fun i => checkDefined (s.loop i)) m with
    | some (r, failing) => refuseMask s r failing
    | none => acceptMask (s.eachNamed m fun i t => t.modLoop i f)

/-- COMMIT_COEF with action APPLY (R56, R57). -/
def reqCommitApply (m : LoopMask) (s : State) : State × List Byte := s.commit m LoopEntry.apply

/-- COMMIT_COEF with action DISCARD (R56, R59). -/
def reqCommitDiscard (m : LoopMask) (s : State) : State × List Byte := s.commit m LoopEntry.discard

/-- COMMIT_COEF, by its action byte (R56, 10.2). -/
def reqCommitCoef (p : List Byte) (s : State) : State × List Byte :=
  if p.length ≠ 3 then refuseMask s .badLength 0
  else
    match (byteAt p 2).toNat with
    | 0 => reqCommitApply (word16At p 0) s
    | 1 => reqCommitDiscard (word16At p 0) s
    | _ => refuseMask s .badField 0

/-! ## READ_COEF (R61) -/

def bankBytes (b : Bank) : List Byte :=
  (bankAt b 0).toBytes ++ (bankAt b 1).toBytes ++ (bankAt b 2).toBytes ++ (bankAt b 3).toBytes

/-- The bank a READ_COEF selector names (10.2). -/
def LoopEntry.bank? (l : LoopEntry) (selector : Byte) : Option Bank :=
  match selector.toNat with
  | 0 => some l.activeBank
  | 1 => some l.pendingBank
  | _ => none

/-- READ_COEF: taken in every state (R61). -/
def reqReadCoef (p : List Byte) (s : State) : State × List Byte :=
  if p.length ≠ 2 then refuse s .badLength
  else
    match loopOfByte (byteAt p 0) with
    | none => refuse s .badField
    | some i =>
      match (s.loop i).bank? (byteAt p 1) with
      | none => refuse s .badField
      | some b =>
        accept s ([(s.loop i).state.toByte, natByte (s.loop i).stageCount, boolByte (s.loop i).commitPending]
          ++ bankBytes b)

end Sys2Proof.Machine
end

