-- ==== Sys2Proof/Machine/EngineRequests.lean ====
section
/-! DEFINITION. The engine requests as the dispatcher carries them out: each is judged on its payload and the
state (R173), and gives the new state with the response's payload (R176 to R180, R185, R186, R190, R191). -/

namespace Sys2Proof.Machine

/-- IDENTIFY (R176). -/
def reqIdentify (p : List Byte) (s : State) : State × List Byte :=
  if p.length ≠ 0 then refuse s .badLength
  else accept s (bytes16 Config.partCode ++ [Config.revision, 16, 32, 4, natByte Config.stackDepth, natByte Config.storeSize])

/-- The values of STATUS behind the result byte (R177, 10.3). -/
def statusBytes (s : State) : List Byte :=
  [s.ctl.mode.toByte, s.ctl.safeCause.toByte, s.link.state.toByte, s.link.lec]
    ++ bytes16 s.link.counters.crcErrors ++ bytes16 s.link.counters.lengthErrors
    ++ bytes16 s.link.counters.gapErrors ++ bytes16 s.link.counters.overruns
    ++ bytes16 s.link.counters.protocolErrors ++ bytes16 s.link.counters.breaks
    ++ [s.ctl.resetCause.toByte, boolByte s.ctl.powerOnFlag]
    ++ bytes32 s.time.tick ++ [natByte s.time.tickLength] ++ natBytes16 s.ctl.supInterval
    ++ [natByte s.rep.window, natByte s.rep.defaultWindow] ++ natBytes16 s.rep.retryTimeout
    ++ [natByte s.rep.retryLimit, natByte s.rep.store.length, natByte s.rep.holding]
    ++ bytes16 s.rep.droppedCount ++ [natByte s.cu.due.length, natByte s.cu.stack.length]

/-- STATUS (R177). -/
def reqStatus (p : List Byte) (s : State) : State × List Byte :=
  if p.length ≠ 0 then refuse s .badLength else accept s (statusBytes s)

/-- The ranges of CONFIGURE's fields (R178, R79). -/
def configureLegal (n interval window timeout limit : Nat) : Bool :=
  1 ≤ n && n ≤ 200 && interval ≤ 60000 && window ≤ 16 && 1 ≤ timeout && timeout ≤ 1000 && limit ≤ 7

/-- The five settings stored in one event; setting the interval restarts the supervision timer (R178, R79, R150,
R187). -/
def State.configure (s : State) (n interval window timeout limit : Nat) : State :=
  { s with
    time := { s.time with tickLength := n }
    ctl := { s.ctl with supInterval := interval }.restartSupervision
    rep := { s.rep with defaultWindow := window, retryTimeout := timeout, retryLimit := limit } }

/-- CONFIGURE (R178). -/
def reqConfigure (p : List Byte) (s : State) : State × List Byte :=
  if p.length ≠ 7 then refuse s .badLength
  else
    let n := (byteAt p 0).toNat
    let interval := (word16At p 1).toNat
    let window := (byteAt p 3).toNat
    let timeout := (word16At p 4).toNat
    let limit := (byteAt p 6).toNat
    if configureLegal n interval window timeout limit = false then refuse s .badField
    else if s.ctl.mode = .run then refuse s .mode
    else accept (s.configure n interval window timeout limit) []

/-- PING (R179). -/
def reqPing (p : List Byte) (s : State) : State × List Byte :=
  if p.length ≠ 0 then refuse s .badLength else accept s (bytes32 s.time.tick)

/-- ENTER_SAFE (R185). -/
def reqEnterSafe (p : List Byte) (s : State) : State × List Byte :=
  if p.length ≠ 0 then refuse s .badLength else accept (s.claimSafe .host) []

/-- RESUME (R186). -/
def reqResume (p : List Byte) (s : State) : State × List Byte :=
  if p.length ≠ 0 then refuse s .badLength
  else if s.link.state = .mute then refuse s .linkMuted
  else
    match s.ctl.mode with
    | .run => accept s []
    | .safe => accept s.enterRun []

/-- RESET: the RESET-pending condition is entered; the full reset follows the response's frame (R191). -/
def reqReset (p : List Byte) (s : State) : State × List Byte :=
  if p.length ≠ 0 then refuse s .badLength
  else accept { s with ctl := { s.ctl with resetPending := true } } []

/-- CLEAR_CAUSE (R190). -/
def reqClearCause (p : List Byte) (s : State) : State × List Byte :=
  if p.length ≠ 0 then refuse s .badLength
  else accept { s with ctl := { s.ctl with powerOnFlag := false } } []

end Sys2Proof.Machine
end

