-- ==== Sys2Proof/Machine/LoopRequests.lean ====
section
/-! DEFINITION. The loop requests as the dispatcher carries them out (R12 to R21). -/

namespace Sys2Proof.Machine

/-! ## DEFINE_LOOP (R13, R14) -/

/-- The entry a taken DEFINE_LOOP leaves: IDLE, the definition and both banks written, everything else started
afresh, the alarm record with the definition's mask (R14, R126). -/
def definedEntry (d : Definition) (bank : Bank) : LoopEntry :=
  { LoopEntry.reset with
    definition := some d
    activeBank := bank
    pendingBank := bank
    state := .idle
    alarms := ⟨0, d.alarmMask, 0⟩ }

/-- DEFINE_LOOP (R12 to R14). -/
def reqDefineLoop (p : List Byte) (s : State) : State × List Byte :=
  if p.length < 11 ∨ p.length ≠ 28 + 12 * (byteAt p 10).toNat then refuse s .badLength
  else
    match loopOfByte (byteAt p 0), parseDefinition p with
    | some i, some (d, bank) =>
      if (s.loop i).state = .empty ∨ (s.loop i).state = .idle then
        accept (s.setLoop i (definedEntry d bank)).refreshAlert []
      else refuse s .state
    | _, _ => refuse s .badField

/-! ## ARM_LOOP (R15, R16) -/

def armCheck (l : LoopEntry) : Option Result :=
  match l.state with
  | .empty => some .badLoop
  | .active => some .state
  | .held _ => some .state
  | _ => none

/-- What ARM_LOOP does to one loop; a loop already ARMED is left unchanged (R16, R81, R83). -/
def LoopEntry.arm (mode : Mode) (now : Tick) (l : LoopEntry) : LoopEntry :=
  match l.state with
  | .armed => l
  | _ =>
    { l.startAfresh with
      state := .armed
      nextRelease := match mode with
        | .run => l.armingPoint now
        | .safe => none }

/-- ARM_LOOP (R15, R16). -/
def reqArmLoop (p : List Byte) (s : State) : State × List Byte :=
  s.maskRequest p armCheck fun m t => t.eachNamed m fun i u => u.modLoop i (LoopEntry.arm s.ctl.mode s.time.tick)

/-! ## HOLD_LOOP (R15, R17) -/

def holdCheck (l : LoopEntry) : Option Result :=
  match l.state with
  | .empty => some .badLoop
  | .idle => some .state
  | .faulted => some .state
  | _ => none

/-- What the hold action does to the safe-substitution flag (R17). -/
def LoopEntry.heldSafeSub (l : LoopEntry) : Bool :=
  match l.definition with
  | some d => if d.holdAction = .safe then true else l.safeSub
  | none => l.safeSub

/-- What HOLD_LOOP does to one loop; a loop already HELD(HOST) is left unchanged (R17, R10, R24). -/
def State.holdLoop (s : State) (i : LoopId) : State :=
  match (s.loop i).state with
  | .held .host => s
  | _ =>
    (s.endInstance i).enterHeld i fun l =>
      { l with state := .held .host, nextRelease := none, safeSub := l.heldSafeSub }

/-- HOLD_LOOP (R15, R17, R105). -/
def reqHoldLoop (p : List Byte) (s : State) : State × List Byte :=
  s.maskRequest p holdCheck fun m t => (t.eachNamed m fun i u => u.holdLoop i).settleChoice

/-! ## UNHOLD_LOOP (R15, R18) -/

def unholdCheck (l : LoopEntry) : Option Result :=
  match l.state with
  | .empty => some .badLoop
  | .held .safe => some .mode
  | .held .host => none
  | _ => some .state

/-- What UNHOLD_LOOP does to one loop (R18, R81, R83). -/
def LoopEntry.unhold (mode : Mode) (now : Tick) (l : LoopEntry) : LoopEntry :=
  { l with
    state := .armed
    missCount := 0
    nextRelease := match mode with
      | .run => l.armingPoint now
      | .safe => none }

/-- UNHOLD_LOOP (R15, R18). -/
def reqUnholdLoop (p : List Byte) (s : State) : State × List Byte :=
  s.maskRequest p unholdCheck fun m t =>
    t.eachNamed m fun i u => u.modLoop i (LoopEntry.unhold s.ctl.mode s.time.tick)

/-! ## CLEAR_LOOP (R15, R19) -/

/-- What CLEAR_LOOP does to one loop; a loop already EMPTY is left with no change (R19). -/
def State.clearLoop (s : State) (i : LoopId) : State :=
  match (s.loop i).state with
  | .empty => s
  | _ => (s.endInstance i).setLoop i LoopEntry.reset

/-- CLEAR_LOOP: no existence, mode or state check (R15, R19, R105, R122). -/
def reqClearLoop (p : List Byte) (s : State) : State × List Byte :=
  s.maskRequest p (fun _ => none) fun m t =>
    (t.eachNamed m fun i u => u.clearLoop i).refreshAlert.settleChoice

/-! ## READ_LOOP (R21) -/

/-- The 27 definition bytes, zeros for an EMPTY loop (R21, 10.3). -/
def LoopEntry.definitionBytes (l : LoopEntry) : List Byte :=
  match l.definition with
  | some d => d.toBytes
  | none => List.replicate 27 0

/-- The descriptor of the stage at index `k` from 0 (10.3). -/
def LoopEntry.stageDesc? (l : LoopEntry) (k : Nat) : Option StageDesc := l.definition.bind fun d => d.stages[k]?

/-- The memory bytes of the stage at index `k` from 0; zeros beyond the stage count (10.3). -/
def LoopEntry.memBytes (l : LoopEntry) (k : Nat) : List Byte :=
  if k < l.stageCount then (memAt l.mem k).toBytes else List.replicate 13 0

/-- The values of READ_LOOP behind the result byte (R21, 10.3). -/
def LoopEntry.toBytes (l : LoopEntry) : List Byte :=
  [l.state.toByte, l.state.holdByte, l.status.toByte, boolByte l.nextRelease.isSome]
    ++ bytes32 (l.nextRelease.getD 0) ++ [l.missCount, boolByte l.outputValid, boolByte l.safeSub]
    ++ bytes16 l.primary ++ bytes16 l.secondary ++ bytes16 l.presented ++ l.definitionBytes
    ++ stageDescBytes (l.stageDesc? 0) ++ stageDescBytes (l.stageDesc? 1)
    ++ stageDescBytes (l.stageDesc? 2) ++ stageDescBytes (l.stageDesc? 3)
    ++ l.memBytes 0 ++ l.memBytes 1 ++ l.memBytes 2 ++ l.memBytes 3
    ++ [boolByte l.commitPending, boolByte l.lastReported.isSome] ++ bytes16 (l.lastReported.getD 0)
    ++ [l.divideCounter] ++ l.stats.toBytes

/-- READ_LOOP (R12, R21). -/
def reqReadLoop (p : List Byte) (s : State) : State × List Byte :=
  if p.length ≠ 1 then refuse s .badLength
  else
    match loopOfByte (byteAt p 0) with
    | none => refuse s .badField
    | some i => accept s (s.loop i).toBytes

/-! ## PRESET_LOOP (R20) -/

/-- One stage preset: the stage index byte and the two words an op may use; word 3 is not looked at (R5, R20). -/
structure Preset where
  index : Byte
  word1 : MemWord
  word2 : MemWord
  deriving DecidableEq, Repr

/-- The `n` presets from position `i` on (10.3). -/
def presetsAt (p : List Byte) : (n i : Nat) → List Preset
  | 0, _ => []
  | n + 1, i => ⟨byteAt p i, word32At p (i + 1), word32At p (i + 5)⟩ :: presetsAt p n (i + 13)

/-- Whether no stage is named twice (R20). -/
def indicesDistinct : List Preset → Bool
  | [] => true
  | q :: rest => rest.all (fun r => r.index != q.index) && indicesDistinct rest

/-- The checks of R20 that do not depend on the definition. -/
def presetsLegal (n : Nat) (qs : List Preset) : Bool :=
  n ≤ 4 && qs.all (fun q => q.index != 0) && indicesDistinct qs

/-- The words a preset writes, with the stage's index from 0, where the definition accepts it (R20). -/
def presetFor (d : Definition) (q : Preset) : Option (Nat × Proposal) :=
  match d.stages[q.index.toNat - 1]? with
  | none => none
  | some st =>
    match presetProposal st.op q.word1 q.word2 with
    | some (some w) => some (q.index.toNat - 1, w)
    | _ => none

/-- Every preset's words, or `none` where the definition refuses one (R20). -/
def presetsFor (d : Definition) : List Preset → Option (List (Nat × Proposal))
  | [] => some []
  | q :: rest =>
    match presetFor d q, presetsFor d rest with
    | some w, some ws => some (w :: ws)
    | _, _ => none

/-- The stage memories with the presets written and their stages seeded (R20). -/
def presetMem (m : Vector StageMem 4) (ws : List (Nat × Proposal)) : Vector StageMem 4 :=
  ws.foldl (fun m w => m.setIfInBounds w.1 ((memAt m w.1).accept (some w.2))) m

/-- What a taken PRESET_LOOP writes (R20). -/
def LoopEntry.preset (l : LoopEntry) (primary : Count) (ws : List (Nat × Proposal)) : LoopEntry :=
  { l with primary := primary, outputValid := true, safeSub := false, mem := presetMem l.mem ws }

/-- PRESET_LOOP (R12, R20). -/
def reqPresetLoop (p : List Byte) (s : State) : State × List Byte :=
  if p.length < 4 ∨ p.length ≠ 4 + 13 * (byteAt p 3).toNat then refuse s .badLength
  else
    let primary := word16At p 1
    let qs := presetsAt p (byteAt p 3).toNat 4
    match loopOfByte (byteAt p 0) with
    | none => refuse s .badField
    | some i =>
      if presetsLegal (byteAt p 3).toNat qs = false then refuse s .badField
      else
        match (s.loop i).definition with
        | none => refuse s .badLoop
        | some d =>
          match presetsFor d qs with
          | none => refuse s .badField
          | some ws =>
            if primary.toInt < d.outMin.toInt ∨ d.outMax.toInt < primary.toInt then refuse s .badField
            else if (s.loop i).state = .active ∨ (s.loop i).state = .faulted then refuse s .state
            else accept (s.modLoop i fun l => l.preset primary ws) []

end Sys2Proof.Machine
end

