-- ==== Sys2Proof/Machine/SampleRequests.lean ====
section
/-! DEFINITION. The sample requests as the dispatcher carries them out (R64 to R68). -/

namespace Sys2Proof.Machine

/-- The `n` pairs of slot byte and value from position `i` on (10.3). -/
def pairsAt (p : List Byte) : (n i : Nat) → List (Byte × Count)
  | 0, _ => []
  | n + 1, i => (byteAt p i, word16At p (i + 1)) :: pairsAt p n (i + 3)

/-- The pairs with their slots, or `none` where any names a slot above 31 (R65). -/
def slotPairs : List (Byte × Count) → Option (List (SlotId × Count))
  | [] => some []
  | (b, v) :: rest =>
    match slotOfByte b, slotPairs rest with
    | some k, some l => some ((k, v) :: l)
    | _, _ => none

/-- The pairs written in payload order, all with the stamp `now` (R66). -/
def State.writeSlots (s : State) (now : Tick) (pairs : List (SlotId × Count)) : State :=
  pairs.foldl (fun t q => t.setSlot q.1 ⟨q.2, now, true⟩) s

/-- WRITE_SAMPLES (R65, R66). -/
def reqWriteSamples (p : List Byte) (s : State) : State × List Byte :=
  let n := (byteAt p 0).toNat
  if p.length < 1 ∨ p.length ≠ 1 + 3 * n then refuse s .badLength
  else if n = 0 ∨ 16 < n then refuse s .badField
  else
    match slotPairs (pairsAt p n 1) with
    | none => refuse s .badField
    | some pairs => accept (s.writeSlots s.time.tick pairs) (bytes32 s.time.tick)

def SampleSlot.toBytes (x : SampleSlot) : List Byte := bytes16 x.value ++ bytes32 x.stamp ++ [boolByte x.written]

/-- The bytes of `n` slots from slot `k` on, in ascending order (R68). -/
def slotBytes (s : State) : (n k : Nat) → List Byte
  | 0, _ => []
  | n + 1, k => (s.samples.toList.getD k .reset).toBytes ++ slotBytes s n (k + 1)

/-- READ_SAMPLES (R68). -/
def reqReadSamples (p : List Byte) (s : State) : State × List Byte :=
  if p.length ≠ 2 then refuse s .badLength
  else
    let first := (byteAt p 0).toNat
    let n := (byteAt p 1).toNat
    if 31 < first ∨ n = 0 ∨ 32 < n ∨ 32 < first + n then refuse s .badField
    else accept s (slotBytes s n first)

end Sys2Proof.Machine
end

