-- ==== Sys2Proof/Machine/Dispatcher.lean ====
section
/-! DEFINITION. The request dispatcher, the inbound slots, and the handling of a good frame (R158 to R162,
R171 to R173). -/

namespace Sys2Proof.Machine

/-- A request of a known kind judged and carried out, with the response's payload; `none` for a kind the
dispatcher does not carry out (R172, R173; kind codes of 10.2). -/
def carryOut (kind : Byte) (p : List Byte) (s : State) : Option (State × List Byte) :=
  match kind.toNat with
  | 0x01 => some (reqIdentify p s)
  | 0x02 => some (reqStatus p s)
  | 0x03 => some (reqConfigure p s)
  | 0x04 => some (reqPing p s)
  | 0x05 => some (reqEnterSafe p s)
  | 0x06 => some (reqResume p s)
  | 0x07 => some (reqReset p s)
  | 0x08 => some (reqClearCause p s)
  | 0x10 => some (reqDefineLoop p s)
  | 0x11 => some (reqArmLoop p s)
  | 0x12 => some (reqHoldLoop p s)
  | 0x13 => some (reqUnholdLoop p s)
  | 0x14 => some (reqClearLoop p s)
  | 0x15 => some (reqReadLoop p s)
  | 0x16 => some (reqPresetLoop p s)
  | 0x18 => some (reqLoadCoef p s)
  | 0x19 => some (reqCommitCoef p s)
  | 0x1A => some (reqReadCoef p s)
  | 0x20 => some (reqWriteSamples p s)
  | 0x21 => some (reqReadSamples p s)
  | 0x28 => some (reqReadAlarms p s)
  | 0x29 => some (reqClearAlarms p s)
  | 0x2A => some (reqMaskAlarms p s)
  | _ => none

/-- A request judged and carried out; any other kind is refused with BAD_KIND and changes nothing (R172). -/
def judge (f : Frame) (s : State) : State × List Byte :=
  match carryOut f.kind f.payload s with
  | some r => r
  | none => refuse s .badKind

/-- The response kind: the request kind with its high bit set (R172). -/
def responseKind (kind : Byte) : Byte := kind ||| 0x80

/-- Whether a response answers a RESET request that has passed its checks (R171, R191). -/
def answersReset (f : Frame) : Bool := f.kind == 0x07 && f.payload.isEmpty

/-- The response to a request, appended to the back of the response queue (R160, R171). -/
def State.respond (s : State) (f : Frame) (payload : List Byte) : State :=
  { s with
    link := { s.link with
      responses := s.link.responses ++ [⟨responseKind f.kind, f.tag, payload, answersReset f⟩] } }

/-- The dispatcher takes a request: judges it, carries it out, appends the response; the transmitter, if idle,
then chooses (R171, R161). DESIGN CHOICE, unsafe (log entry 25): in an event that also ends the start-up hold or
MUTE, the request is carried out and its response built before the idle transmitter takes a report, even where the
report is then taken ahead of the response. So STATUS does not yet show that report as holding an RSN, an offer of the
request merges into a QUEUED entry before it is taken (R140), and the taking starts the retry timer with the timeout of
a CONFIGURE of that event. -/
def State.serve (s : State) (f : Frame) : State :=
  let (t, payload) := judge f s
  (t.respond f payload).transmitAfterResponse

/-- Whether the dispatcher takes the oldest filled slot: the response queue has room and no RESET has stopped
it (R171). -/
def State.dispatcherFree (s : State) : Bool :=
  s.link.responses.length < Config.responseQueue && !s.ctl.resetPending

/-- The dispatcher takes the oldest filled slot, for as long as one is filled and it is free; at most `n` slots
are taken (R171). -/
def State.dispatchUpTo (s : State) : Nat → State
  | 0 => s
  | n + 1 =>
    match s.link.slots with
    | [] => s
    | f :: rest =>
      if s.dispatcherFree then ({ s with link := { s.link with slots := rest } }.serve f).dispatchUpTo n else s

/-- The dispatcher takes every slot it can (R171). -/
def State.dispatch (s : State) : State := s.dispatchUpTo s.link.slots.length

/-- A frame placed in a free inbound slot at the back of the queue; with all four filled it is an overrun
(R159). -/
def State.placeInSlot (s : State) (f : Frame) : State :=
  if s.link.slots.length < Config.inboundSlots then
    { s with link := { s.link with slots := s.link.slots ++ [f] } }
  else s.modCounters fun c => { c with overruns := satInc c.overruns }

/-- A request reaches the inbound slots, and the dispatcher takes what it can (R159, R171). -/
def State.submit (s : State) (kind tag : Byte) (payload : List Byte) : State :=
  (s.placeInSlot ⟨kind, tag, payload⟩).dispatch

/-- Whether a good frame finds no slot: a frame of a kind placed in a slot, with all four filled (R159). -/
def State.overrunBy (s : State) (kind : Byte) : Bool :=
  kind != reportAckKind && Config.inboundSlots ≤ s.link.slots.length

/-- What a good frame's arrival does ahead of its being passed on: the receiver is back in HUNT, the start-up
hold ends, supervision restarts, and the LEC is lowered unless the frame is an overrun (R158, R159, R194). -/
def State.arrive (s : State) (kind : Byte) : State :=
  let t := s.toHunt.restartSupervision
  let u := { t with link := { t.link with startUpHold := false } }
  if s.overrunBy kind then u else u.lowerLec

/-- A good frame passed on by its kind: REPORT_ACK straight to the report unit, every other kind to a slot and
the dispatcher; the transmitter, if idle, then chooses (R158, R161). DESIGN CHOICE, unsafe (log entry 25): where the
frame's arrival ends the start-up hold or MUTE with the transmitter idle, what the frame brings acts before a report is
taken: a REPORT_ACK removes entries and sets the window first, and the entry taken is the first eligible one under that
window (R147 allows the taking to come first). -/
def State.goodFrame (s : State) (kind tag : Byte) (payload : List Byte) : State :=
  if kind = reportAckKind then ((s.arrive kind).passAck payload).transmit
  else ((s.arrive kind).submit kind tag payload).transmit

end Sys2Proof.Machine
end

