-- ==== Sys2Proof/Machine/LineRows.lean ====
section
/-! DEFINITION. The meanings of the rows of the serial line: whole frames, line errors, single bytes, the break,
and the end of a frame sent (R152 to R170, R192, R194). While RXD is in a low period the receiver waits out, it
takes no byte (R167, R157), and a row that needs one has no effect. -/

namespace Sys2Proof.Machine

/-- An event of the receiver, which needs RXD to bring bytes (R167, R157). -/
def State.whenTaking (s : State) (f : State → State) : Host.Outcome State Fault Refusal :=
  s.whenRunning fun t => if t.takesBytes then f t else t

/-- REPORT_ACK: a good frame of kind 40h (R158, R146). -/
def execReportAck (tag : Byte) (payload : List Byte) (s : State) : Host.Outcome State Fault Refusal :=
  s.whenTaking fun t => t.goodFrame reportAckKind tag payload

/-- GOOD_FRAME (R158, R159). -/
def execGoodFrame (kind tag : Byte) (payload : List Byte) (s : State) : Host.Outcome State Fault Refusal :=
  s.whenTaking fun t => t.goodFrame kind tag payload

/-- CRC_ERROR (R156). -/
def execCrcError (s : State) : Host.Outcome State Fault Refusal := s.whenTaking State.crcErrorEvent

/-- LENGTH_ERROR (R155). -/
def execLengthError (s : State) : Host.Outcome State Fault Refusal := s.whenTaking State.lengthErrorEvent

/-- A byte of zeros with a low stop bit is held undecided, the gap timer standing still meanwhile (R157). -/
def State.holdUndecided (s : State) : State :=
  { s with
    link := { s.link with
      rxd := .undecided
      gapTimer := if s.link.gapTimer = .running then .held else s.link.gapTimer } }

/-- FRAMING_ERROR (R157). -/
def execFramingError (data : Byte) (s : State) : Host.Outcome State Fault Refusal :=
  s.whenTaking fun t => if data = 0 then t.holdUndecided else t.framingErrorEvent

/-- GAP_TIMER_EXPIRY: a gap error; a timer that is stopped or held still does not expire (R157). -/
def execGapTimerExpiry (s : State) : Host.Outcome State Fault Refusal :=
  s.whenRunning fun t => if t.link.gapTimer = .running then t.gapErrorEvent else t

/-- The effects of a link break on the link unit and the report unit (R168, R149). -/
def State.breakEffects (s : State) : State :=
  let wasOk := s.link.state == .ok
  let t := { s with
    link := { s.link.toHunt with
      rxd := .breakLow
      slots := []
      responses := []
      lec := 0
      state := .ok
      counters := { s.link.counters with breaks := satInc s.link.counters.breaks } } }
  let u := if wasOk then t else t.offerEngine .linkReset
  { u with rep := u.rep.linkBreak }

/-- BREAK: recognised once for one low period; where it empties the response to a RESET from the response queue,
the full reset follows at once, and RXD stands low at its start-up (R167, R168, R192). -/
def State.breakEvent (s : State) (straps : Straps) : State :=
  if s.link.rxd = .breakLow then s
  else if s.link.responses.any (·.ofReset) then s.breakEffects.commandReset straps true
  else s.breakEffects.transmit

/-- BREAK (R167, R168). -/
def execLineBreak (straps : Straps) (s : State) : Host.Outcome State Fault Refusal :=
  s.whenRunning fun t => t.breakEvent straps

/-- RXD_RETURNS_HIGH: after a break or a low start-up the receiver waits in HUNT for the next start bit; an
undecided byte turns out a framing error (R167, R157). -/
def execRxdReturnsHigh (s : State) : Host.Outcome State Fault Refusal :=
  s.whenRunning fun t =>
    let u := { t with link := { t.link with rxd := .taking } }
    if t.link.rxd = .undecided then u.framingErrorEvent else u

/-- START_UP_HOLD_END: RXD has been high for 10 character times, and the transmitter, if idle, asks for a report
(R194). -/
def execStartUpHoldEnd (s : State) : Host.Outcome State Fault Refusal :=
  s.whenTaking fun t =>
    if t.link.startUpHold then { t with link := { t.link with startUpHold := false } }.transmit else t

/-- The receiver in another state, with the gap timer running (R154, R157). -/
def State.receiving (s : State) (rx : Receiver) : State :=
  { s with link := { s.link with rx := rx, gapTimer := .running } }

/-- A LEN byte: above 240 a length error, and otherwise the receiver goes to BODY, or to CHECK when it is 0
(R154, R155). -/
def State.lengthByte (s : State) (kind tag len : Byte) : State :=
  if Config.maxPayload < len.toNat then s.lengthErrorEvent
  else if len = 0 then s.receiving (.check kind tag [] none)
  else s.receiving (.body kind tag len [])

/-- The second check byte: a good frame where the CRC agrees, a CRC error where it does not (R154, R156). -/
def State.frameEnded (s : State) (kind tag : Byte) (payload : List Byte) (high low : Byte) : State :=
  if crc16 (checkedBytes kind tag payload) = high ++ low then s.goodFrame kind tag payload else s.crcErrorEvent

/-- A byte taken by the receiver, treated by its state (R154). -/
def State.receiveByte (s : State) (b : Byte) : State :=
  match s.link.rx with
  | .hunt => if b = 0xA5 then s.receiving (.header []) else s
  | .header [] => s.receiving (.header [b])
  | .header [kind] => s.receiving (.header [kind, b])
  | .header (kind :: tag :: _) => s.lengthByte kind tag b
  | .body kind tag len payload =>
    let got := payload ++ [b]
    if got.length < len.toNat then s.receiving (.body kind tag len got)
    else s.receiving (.check kind tag got none)
  | .check kind tag payload none => s.receiving (.check kind tag payload (some b))
  | .check kind tag payload (some high) => s.frameEnded kind tag payload high b

/-- BYTE_RECEIVED (R154). -/
def execByteReceived (data : Byte) (s : State) : Host.Outcome State Fault Refusal :=
  s.whenTaking fun t => t.receiveByte data

/-- The end of the frame on TXD: after the response to a RESET the full reset is made, and otherwise the
transmitter becomes idle and chooses, and the dispatcher takes what room its choice leaves (R161, R171, R191). -/
def State.frameEndEvent (s : State) (straps : Straps) (rxdLow : Bool) : State :=
  match s.link.tx with
  | .idle => s
  | .sending _ true => s.commandReset straps rxdLow
  | .sending _ false => ({ s with link := { s.link with tx := .idle } }.transmit).dispatch

/-- FRAME_END (R161, R191). -/
def execFrameEnd (straps : Straps) (rxdLow : Bool) (s : State) : Host.Outcome State Fault Refusal :=
  s.whenRunning fun t => t.frameEndEvent straps rxdLow

end Sys2Proof.Machine
end

