-- ==== Sys2Proof/Machine/RequestRows.lean ====
section
/-! DEFINITION. The meanings of the request rows: the request reaches the inbound slots and the dispatcher takes
it as soon as it can (R159, R171). What the arrival of its frame does to the link unit and to the supervision
timer belongs to GOOD_FRAME (R158; log entry 3). -/

namespace Sys2Proof.Machine

/-- IDENTIFY (01h, R176). -/
def execIdentify (tag : Byte) (payload : List Byte) (s : State) : Host.Outcome State Fault Refusal :=
  s.whenRunning fun t => t.submit 0x01 tag payload

/-- STATUS (02h, R177). -/
def execStatus (tag : Byte) (payload : List Byte) (s : State) : Host.Outcome State Fault Refusal :=
  s.whenRunning fun t => t.submit 0x02 tag payload

/-- CONFIGURE (03h, R178). -/
def execConfigure (tag : Byte) (payload : List Byte) (s : State) : Host.Outcome State Fault Refusal :=
  s.whenRunning fun t => t.submit 0x03 tag payload

/-- PING (04h, R179). -/
def execPing (tag : Byte) (payload : List Byte) (s : State) : Host.Outcome State Fault Refusal :=
  s.whenRunning fun t => t.submit 0x04 tag payload

/-- ENTER_SAFE (05h, R185). -/
def execEnterSafe (tag : Byte) (payload : List Byte) (s : State) : Host.Outcome State Fault Refusal :=
  s.whenRunning fun t => t.submit 0x05 tag payload

/-- RESUME (06h, R186). -/
def execResume (tag : Byte) (payload : List Byte) (s : State) : Host.Outcome State Fault Refusal :=
  s.whenRunning fun t => t.submit 0x06 tag payload

/-- RESET (07h, R191). -/
def execReset (tag : Byte) (payload : List Byte) (s : State) : Host.Outcome State Fault Refusal :=
  s.whenRunning fun t => t.submit 0x07 tag payload

/-- CLEAR_CAUSE (08h, R190). -/
def execClearCause (tag : Byte) (payload : List Byte) (s : State) : Host.Outcome State Fault Refusal :=
  s.whenRunning fun t => t.submit 0x08 tag payload

/-- DEFINE_LOOP (10h, R13, R14). -/
def execDefineLoop (tag : Byte) (payload : List Byte) (s : State) : Host.Outcome State Fault Refusal :=
  s.whenRunning fun t => t.submit 0x10 tag payload

/-- ARM_LOOP (11h, R16). -/
def execArmLoop (tag : Byte) (payload : List Byte) (s : State) : Host.Outcome State Fault Refusal :=
  s.whenRunning fun t => t.submit 0x11 tag payload

/-- HOLD_LOOP (12h, R17). -/
def execHoldLoop (tag : Byte) (payload : List Byte) (s : State) : Host.Outcome State Fault Refusal :=
  s.whenRunning fun t => t.submit 0x12 tag payload

/-- UNHOLD_LOOP (13h, R18). -/
def execUnholdLoop (tag : Byte) (payload : List Byte) (s : State) : Host.Outcome State Fault Refusal :=
  s.whenRunning fun t => t.submit 0x13 tag payload

/-- CLEAR_LOOP (14h, R19). -/
def execClearLoop (tag : Byte) (payload : List Byte) (s : State) : Host.Outcome State Fault Refusal :=
  s.whenRunning fun t => t.submit 0x14 tag payload

/-- READ_LOOP (15h, R21). -/
def execReadLoop (tag : Byte) (payload : List Byte) (s : State) : Host.Outcome State Fault Refusal :=
  s.whenRunning fun t => t.submit 0x15 tag payload

/-- PRESET_LOOP (16h, R20). -/
def execPresetLoop (tag : Byte) (payload : List Byte) (s : State) : Host.Outcome State Fault Refusal :=
  s.whenRunning fun t => t.submit 0x16 tag payload

/-- LOAD_COEF (18h, R54, R55). -/
def execLoadCoef (tag : Byte) (payload : List Byte) (s : State) : Host.Outcome State Fault Refusal :=
  s.whenRunning fun t => t.submit 0x18 tag payload

/-- COMMIT_COEF with action APPLY, 00h (19h, R56, R57). -/
def execCommitCoefApply (tag : Byte) (maskField : List Byte) (s : State) : Host.Outcome State Fault Refusal :=
  s.whenRunning fun t => t.submit 0x19 tag (maskField ++ [0x00])

/-- COMMIT_COEF with action DISCARD, 01h (19h, R56, R59). -/
def execCommitCoefDiscard (tag : Byte) (maskField : List Byte) (s : State) : Host.Outcome State Fault Refusal :=
  s.whenRunning fun t => t.submit 0x19 tag (maskField ++ [0x01])

/-- READ_COEF (1Ah, R61). -/
def execReadCoef (tag : Byte) (payload : List Byte) (s : State) : Host.Outcome State Fault Refusal :=
  s.whenRunning fun t => t.submit 0x1A tag payload

/-- WRITE_SAMPLES (20h, R65, R66). -/
def execWriteSamples (tag : Byte) (payload : List Byte) (s : State) : Host.Outcome State Fault Refusal :=
  s.whenRunning fun t => t.submit 0x20 tag payload

/-- READ_SAMPLES (21h, R68). -/
def execReadSamples (tag : Byte) (payload : List Byte) (s : State) : Host.Outcome State Fault Refusal :=
  s.whenRunning fun t => t.submit 0x21 tag payload

/-- READ_ALARMS (28h, R123). -/
def execReadAlarms (tag : Byte) (payload : List Byte) (s : State) : Host.Outcome State Fault Refusal :=
  s.whenRunning fun t => t.submit 0x28 tag payload

/-- CLEAR_ALARMS (29h, R124). -/
def execClearAlarms (tag : Byte) (payload : List Byte) (s : State) : Host.Outcome State Fault Refusal :=
  s.whenRunning fun t => t.submit 0x29 tag payload

/-- MASK_ALARMS (2Ah, R125). -/
def execMaskAlarms (tag : Byte) (payload : List Byte) (s : State) : Host.Outcome State Fault Refusal :=
  s.whenRunning fun t => t.submit 0x2A tag payload

/-- A slotted frame of a kind the dispatcher does not carry out (R172). -/
def execUnknownKindRequest (kind tag : Byte) (payload : List Byte) (s : State) :
    Host.Outcome State Fault Refusal :=
  s.whenRunning fun t => t.submit kind tag payload

end Sys2Proof.Machine
end

