-- ==== Sys2Proof/Machine/Dispatch.lean ====
section
/-! DEFINITION. One arm per command: each calls its meaning. -/

namespace Sys2Proof.Machine

-- The effect of a command on everything but the queue.
def exec (i : Instr) (s : State) : Host.Outcome State Fault Refusal :=
  match i with
  | .identify tag payload => Sys2Proof.Machine.execIdentify tag payload s
  | .status tag payload => Sys2Proof.Machine.execStatus tag payload s
  | .configure tag payload => Sys2Proof.Machine.execConfigure tag payload s
  | .ping tag payload => Sys2Proof.Machine.execPing tag payload s
  | .enterSafe tag payload => Sys2Proof.Machine.execEnterSafe tag payload s
  | .resume tag payload => Sys2Proof.Machine.execResume tag payload s
  | .reset tag payload => Sys2Proof.Machine.execReset tag payload s
  | .clearCause tag payload => Sys2Proof.Machine.execClearCause tag payload s
  | .defineLoop tag payload => Sys2Proof.Machine.execDefineLoop tag payload s
  | .armLoop tag payload => Sys2Proof.Machine.execArmLoop tag payload s
  | .holdLoop tag payload => Sys2Proof.Machine.execHoldLoop tag payload s
  | .unholdLoop tag payload => Sys2Proof.Machine.execUnholdLoop tag payload s
  | .clearLoop tag payload => Sys2Proof.Machine.execClearLoop tag payload s
  | .readLoop tag payload => Sys2Proof.Machine.execReadLoop tag payload s
  | .presetLoop tag payload => Sys2Proof.Machine.execPresetLoop tag payload s
  | .loadCoef tag payload => Sys2Proof.Machine.execLoadCoef tag payload s
  | .commitCoefApply tag maskField => Sys2Proof.Machine.execCommitCoefApply tag maskField s
  | .commitCoefDiscard tag maskField => Sys2Proof.Machine.execCommitCoefDiscard tag maskField s
  | .readCoef tag payload => Sys2Proof.Machine.execReadCoef tag payload s
  | .writeSamples tag payload => Sys2Proof.Machine.execWriteSamples tag payload s
  | .readSamples tag payload => Sys2Proof.Machine.execReadSamples tag payload s
  | .readAlarms tag payload => Sys2Proof.Machine.execReadAlarms tag payload s
  | .clearAlarms tag payload => Sys2Proof.Machine.execClearAlarms tag payload s
  | .maskAlarms tag payload => Sys2Proof.Machine.execMaskAlarms tag payload s
  | .unknownKindRequest kind tag payload => Sys2Proof.Machine.execUnknownKindRequest kind tag payload s
  | .reportAck tag payload => Sys2Proof.Machine.execReportAck tag payload s
  | .goodFrame kind tag payload => Sys2Proof.Machine.execGoodFrame kind tag payload s
  | .crcError => Sys2Proof.Machine.execCrcError s
  | .lengthError => Sys2Proof.Machine.execLengthError s
  | .framingError data => Sys2Proof.Machine.execFramingError data s
  | .gapTimerExpiry => Sys2Proof.Machine.execGapTimerExpiry s
  | .lineBreak straps => Sys2Proof.Machine.execLineBreak straps s
  | .startUpHoldEnd => Sys2Proof.Machine.execStartUpHoldEnd s
  | .powerOnReset straps => Sys2Proof.Machine.execPowerOnReset straps s
  | .pinReset straps => Sys2Proof.Machine.execPinReset straps s
  | .startUp rxdLow => Sys2Proof.Machine.execStartUp rxdLow s
  | .frameEnd straps rxdLow => Sys2Proof.Machine.execFrameEnd straps rxdLow s
  | .tick => Sys2Proof.Machine.execTick s
  | .release loop => Sys2Proof.Machine.execRelease loop s
  | .stageCompletion => Sys2Proof.Machine.execStageCompletion s
  | .retryTimerExpiry => Sys2Proof.Machine.execRetryTimerExpiry s
  | .supervisionExpiry => Sys2Proof.Machine.execSupervisionExpiry s
  | .byteReceived data => Sys2Proof.Machine.execByteReceived data s
  | .rxdReturnsHigh => Sys2Proof.Machine.execRxdReturnsHigh s

end Sys2Proof.Machine
end

