-- ==== Sys2Proof/Safety.lean ====
section
/-! DEFINITION. The terms claims are stated in: the situations a command meets, the layouts a host fills in, and
the invariants of a safe run, each from the rules named. -/

namespace Sys2Proof.Machine

/-! ## The situations a request meets (R159, R161, R171) -/

/-- The frame a request row stands for (Message Formats 10.2). -/
def requestFrame : Instr → Option Frame
  | .identify t p => some ⟨0x01, t, p⟩
  | .status t p => some ⟨0x02, t, p⟩
  | .configure t p => some ⟨0x03, t, p⟩
  | .ping t p => some ⟨0x04, t, p⟩
  | .enterSafe t p => some ⟨0x05, t, p⟩
  | .resume t p => some ⟨0x06, t, p⟩
  | .reset t p => some ⟨0x07, t, p⟩
  | .clearCause t p => some ⟨0x08, t, p⟩
  | .defineLoop t p => some ⟨0x10, t, p⟩
  | .armLoop t p => some ⟨0x11, t, p⟩
  | .holdLoop t p => some ⟨0x12, t, p⟩
  | .unholdLoop t p => some ⟨0x13, t, p⟩
  | .clearLoop t p => some ⟨0x14, t, p⟩
  | .readLoop t p => some ⟨0x15, t, p⟩
  | .presetLoop t p => some ⟨0x16, t, p⟩
  | .loadCoef t p => some ⟨0x18, t, p⟩
  | .commitCoefApply t m => some ⟨0x19, t, m ++ [0x00]⟩
  | .commitCoefDiscard t m => some ⟨0x19, t, m ++ [0x01]⟩
  | .readCoef t p => some ⟨0x1A, t, p⟩
  | .writeSamples t p => some ⟨0x20, t, p⟩
  | .readSamples t p => some ⟨0x21, t, p⟩
  | .readAlarms t p => some ⟨0x28, t, p⟩
  | .clearAlarms t p => some ⟨0x29, t, p⟩
  | .maskAlarms t p => some ⟨0x2A, t, p⟩
  | .unknownKindRequest k t p => some ⟨k, t, p⟩
  | _ => none

/-- The dispatcher takes a request in the very event that brings it: the part runs, no request waits ahead of it,
the response queue has room, and no RESET has stopped the dispatcher (R171). -/
abbrev State.Accepting (s : State) : Prop :=
  s.power = .running ∧ s.link.slots = [] ∧ s.link.responses.length < 4 ∧ s.ctl.resetPending = false

/-- A request finds a slot and waits in it: the response queue is full or a RESET has stopped the dispatcher
(R159, R171). -/
abbrev State.Waiting (s : State) : Prop :=
  s.power = .running ∧ s.link.slots.length < 4 ∧ (4 ≤ s.link.responses.length ∨ s.ctl.resetPending = true)

/-- The part runs and RXD brings bytes (R154, R167). -/
abbrev State.Receiving (s : State) : Prop := s.power = .running ∧ s.link.rxd = .taking

/-- A response appended to the queue, and the transmitter's choice where it is idle (R160, R161); what the request has
done comes before the choice (log entry 25, the model's choice where a report stands on offer already). -/
def State.reply (s : State) (kind tag : Byte) (payload : List Byte) (ofReset : Bool := false) : State :=
  { s with link := { s.link with responses := s.link.responses ++ [(⟨kind, tag, payload, ofReset⟩ : Response)] } }.transmitAfterResponse

/-! ## Stale inputs (R73, R74) -/

/-- A binding is stale at a release at the current tick (R73, R71). -/
def State.Stale (s : State) (maxAge : Nat) : Binding → Prop
  | .zero => False
  | .sample k =>
    (s.slot k).written = false ∨ (0 < maxAge ∧ maxAge < (s.time.tick - (s.slot k).stamp).toNat)
  | .primary n => (s.loop n).outputValid = false
  | .secondary n => (s.loop n).outputValid = false

/-- A release is stale when at least one input is (R74). -/
def State.StaleRelease (s : State) (d : Definition) : Prop :=
  s.Stale d.maxAge.toNat d.inputA ∨ ∃ b, d.inputB = some b ∧ s.Stale d.maxAge.toNat b

/-- The value a binding supplies (R28, R23). -/
def State.supplied (s : State) : Binding → Count
  | .zero => 0
  | .sample k => (s.slot k).value
  | .primary n =>
    match (s.loop n).safeSub, (s.loop n).definition with
    | true, some d => d.safeValue
    | _, _ => (s.loop n).primary
  | .secondary n => (s.loop n).secondary

/-- A release of loop `i` falls due: the loop is ACTIVE, or ARMED with the engine in RUN, and its next-release
tick is the tick count (R85). -/
abbrev State.FallsDue (s : State) (i : LoopId) (d : Definition) : Prop :=
  s.power = .running ∧ (s.loop i).definition = some d ∧ (s.loop i).nextRelease = some s.time.tick
    ∧ ((s.loop i).state = .active ∨ ((s.loop i).state = .armed ∧ s.ctl.mode = .run))

/-! ## The codes of 10.2 -/

/-- The enumerated values as the layouts write them, code for code (10.2). -/
def EnumCodes : Prop :=
  [StageOp.gain, .sum, .lpf, .pid, .div, .rotate, .atan, .limit].map StageOp.toByte
      = [0x01, 0x02, 0x03, 0x04, 0x05, 0x06, 0x07, 0x08]
  ∧ (∀ (k : SlotId) (n : LoopId), [Binding.zero, .sample k, .primary n, .secondary n].map Binding.toBytes
      = [[0x00, 0x00], [0x01, natByte k], [0x02, natByte n], [0x03, natByte n]])
  ∧ inputBBytes none = [0xFF, 0x00] ∧ (∀ b, inputBBytes (some b) = b.toBytes)
  ∧ [HoldAction.last, .safe].map HoldAction.toByte = [0x00, 0x01]
  ∧ [StalePolicy.use, .skip, .fault].map StalePolicy.toByte = [0x00, 0x01, 0x02]
  ∧ [ArithPolicy.proceed, .fault].map ArithPolicy.toByte = [0x00, 0x01]
  ∧ [ReportMode.every, .divide, .change, .silent].map ReportMode.toByte = [0x00, 0x01, 0x02, 0x03]
  ∧ [LoopState.empty, .idle, .armed, .active, .held .host, .held .safe, .faulted].map LoopState.toByte
      = [0x00, 0x01, 0x02, 0x03, 0x04, 0x04, 0x05]
  ∧ [LoopState.idle, .held .host, .held .safe].map LoopState.holdByte = [0x00, 0x01, 0x02]
  ∧ [InstanceStatus.noInstance, .due, .running, .suspended].map InstanceStatus.toByte = [0x00, 0x01, 0x02, 0x03]
  ∧ [Mode.safe, .run].map Mode.toByte = [0x00, 0x01]
  ∧ [SafeCause.reset, .host, .supervision, .linkMute].map SafeCause.toByte = [0x00, 0x01, 0x02, 0x03]
  ∧ [LinkState.ok, .warn, .mute].map LinkState.toByte = [0x00, 0x01, 0x02]
  ∧ [ResetCause.powerOn, .pin, .command].map ResetCause.toByte = [0x00, 0x01, 0x02]
  ∧ [Result.ok, .badKind, .badLength, .badField, .badLoop, .state, .mode, .pending, .linkMuted].map Result.toByte
      = [0x00, 0x01, 0x02, 0x03, 0x04, 0x05, 0x06, 0x07, 0x08]
  ∧ (∀ (c : SafeCause) (n : BitVec 16),
      [EngineEvent.safeEntered c, .runEntered, .linkWarn, .linkOk, .muteLeft, .linkReset, .reportsDropped n].map
          EngineEvent.toBytes
        = [[0x01, 0x00, c.toByte], [0x02, 0x00, 0x00], [0x03, 0x00, 0x00], [0x04, 0x00, 0x00], [0x05, 0x00, 0x00],
          [0x06, 0x00, 0x00], 0x07 :: bytes16 n])
  ∧ [flagSat, flagMiss, flagStale, flagArith, flagFault].map flagsByte = [0x01, 0x02, 0x04, 0x08, 0x10]
  ∧ (∀ f : FlagSet, flagsByte f = f.setWidth 8)
  ∧ [false, true].map boolByte = [0x00, 0x01] ∧ [Level.high, .low].map Level.toByte = [0x00, 0x01]
  ∧ (∀ (o : OutputReport) (a : AlarmReport) (e : EngineEvent) (c : ResetCause) (flag : Bool) (rev : Byte),
      [Report.output o, .alarm a, .engine e, .boot c flag rev].map Report.kind = [0xC0, 0xC1, 0xC2, 0xC3])
  ∧ (∀ (tag : Byte) (m : List Byte), requestFrame (.commitCoefApply tag m) = some ⟨0x19, tag, m ++ [0x00]⟩
      ∧ requestFrame (.commitCoefDiscard tag m) = some ⟨0x19, tag, m ++ [0x01]⟩)
  ∧ (∀ (l : LoopEntry) (b : Byte), l.bank? 0x00 = some l.activeBank ∧ l.bank? 0x01 = some l.pendingBank
      ∧ (1 < b.toNat → l.bank? b = none))

/-! ## The layouts a host fills in (10.3) -/

/-- A stage entry of DEFINE_LOOP (10.3). -/
def stageEntryBytes (st : StageDesc) (c : Coefs) : List Byte :=
  [st.op.toByte, st.target, natByte st.shift, boolByte st.setpointFromB]
    ++ bytes16 c.c0 ++ bytes16 c.c1 ++ bytes16 c.c2 ++ bytes16 c.c3

/-- The stage entries of a program with its coefficient words. -/
def stageEntriesBytes (sts : List (StageDesc × Coefs)) : List Byte :=
  sts.flatMap fun st => stageEntryBytes st.1 st.2

/-- A DEFINE_LOOP payload, field by field in the order of its layout (10.3). -/
def defineLoopBytes (i : LoopId) (d : Definition) (cs : List Coefs) : List Byte :=
  [natByte i, natByte d.priority] ++ bytes16 d.period ++ bytes16 d.offset
    ++ d.inputA.toBytes ++ inputBBytes d.inputB ++ [natByte d.stages.length]
    ++ bytes16 d.outMin ++ bytes16 d.outMax ++ bytes16 d.safeValue
    ++ [d.holdAction.toByte, d.stalePolicy.toByte] ++ bytes16 d.maxAge
    ++ [d.missLimit, d.arithPolicy.toByte, d.reportMode.toByte] ++ bytes16 d.reportParam
    ++ [boolByte d.includeSecondary, flagsByte d.alarmMask] ++ stageEntriesBytes (d.stages.zip cs)

/-- The coefficient words an op refuses (R13, R46). -/
def LegalCoefs (op : StageOp) (c : Coefs) : Prop :=
  (op = .lpf → 0 ≤ c.c0.toInt) ∧ (op = .limit → c.c0.toInt ≤ c.c1.toInt)

/-- A definition DEFINE_LOOP accepts (R13, R174). -/
structure Definition.Legal (d : Definition) : Prop where
  period : 0 < d.period.toNat
  offset : d.offset.toNat < d.period.toNat
  stageCount : 1 ≤ d.stages.length ∧ d.stages.length ≤ 4
  gainTarget : ∀ st ∈ d.stages, st.op = .gain → st.target.toNat ≤ 2
  outRange : d.outMin.toInt ≤ d.outMax.toInt
  safeValue : d.outMin.toInt ≤ d.safeValue.toInt ∧ d.safeValue.toInt ≤ d.outMax.toInt
  divide : d.reportMode = .divide → 2 ≤ d.reportParam.toNat ∧ d.reportParam.toNat ≤ 255
  change : d.reportMode = .change → d.reportParam ≠ 0

/-- One preset of PRESET_LOOP as the host fills it in: the stage index from 1, and three words (10.3). -/
structure PresetEntry where
  index : Nat
  word1 : MemWord
  word2 : MemWord
  word3 : MemWord
  deriving DecidableEq, Repr

/-- A PRESET_LOOP payload (10.3). -/
def presetLoopBytes (i : LoopId) (primary : Count) (qs : List PresetEntry) : List Byte :=
  [natByte i] ++ bytes16 primary ++ [natByte qs.length]
    ++ qs.flatMap fun q => natByte q.index :: bytes32 q.word1 ++ bytes32 q.word2 ++ bytes32 q.word3

/-- The range R5 gives for the words an op uses; an op without memory words has none. -/
def PresetInRange (op : StageOp) (q : PresetEntry) : Prop :=
  match op with
  | .lpf => True
  | .pid => -134213632 ≤ q.word1.toInt ∧ q.word1.toInt ≤ 134213632
      ∧ -65535 ≤ q.word2.toInt ∧ q.word2.toInt ≤ 65535
  | .limit => -32768 ≤ q.word1.toInt ∧ q.word1.toInt ≤ 32767
  | _ => False

/-- A WRITE_SAMPLES payload (10.3). -/
def writeSamplesBytes (pairs : List (SlotId × Count)) : List Byte :=
  natByte pairs.length :: pairs.flatMap fun q => natByte q.1 :: bytes16 q.2

/-! ## The values of a full reset (R1, R64, R79, R80, R99, R102, R108, R118, R151, R170, R181, R187, R189) -/

/-- A loop entry with every field at the value R1 and R118 give it. -/
def resetLoop : LoopEntry where
  definition := none
  activeBank := Vector.replicate 4 ⟨0, 0, 0, 0⟩
  pendingBank := Vector.replicate 4 ⟨0, 0, 0, 0⟩
  commitPending := false
  primary := 0
  secondary := 0
  mem := Vector.replicate 4 ⟨0, 0, 0, false⟩
  state := .empty
  status := .noInstance
  nextRelease := none
  missCount := 0
  outputValid := false
  safeSub := false
  lastReported := none
  divideCounter := 0
  stats := ⟨0, 0, 0, 0, 0, 0, 0⟩
  alarms := { latched := 0, mask := 0b11111, owed := 0 }

/-- The part in reset with every block at its reset values, the reset cause record as given (R193). -/
def resetValues (cause : ResetCause) (flag : Bool) (straps : Straps) (choices : Nat) (pending : List Instr) :
    State where
  power := .inReset
  loops := Vector.replicate 16 resetLoop
  samples := Vector.replicate 32 { value := 0, stamp := 0, written := false }
  time := { tickLength := 20, intervalLength := 20, tick := 0 }
  cu := { state := .idle, due := [], running := none, stack := [] }
  ctl := { mode := .safe, safeCause := .reset, safeN := .low, supInterval := 0, supTimer := none,
           resetCause := cause, powerOnFlag := flag, resetPending := false }
  alertN := .high
  rep := { store := [], nextRsn := 0, window := 4, defaultWindow := 4, retryTimer := none, retryTimeout := 50,
           retryLimit := 3, engineOwed := [], droppedCount := 0 }
  link := { lineRate := straps, rx := .hunt, gapTimer := .stopped, rxd := .taking, slots := [], responses := [],
            tx := .idle, lec := 0, state := .ok,
            counters := { crcErrors := 0, lengthErrors := 0, gapErrors := 0, overruns := 0, protocolErrors := 0,
                          breaks := 0 },
            startUpHold := false }
  choices := choices
  pending := pending

/-- The part after a full reset with cause COMMAND and its start-up in the same event (R191, R193, R138). -/
def commandResetState (s : State) (straps : Straps) (rxdLow : Bool) : State :=
  let t := resetValues .command s.ctl.powerOnFlag straps s.choices s.pending
  { t with
    power := .running
    rep := { t.rep with store := [⟨.boot .command s.ctl.powerOnFlag 0x01, .queued, 0⟩] }
    link := { t.link with startUpHold := true, rxd := if rxdLow then .startUpLow else .taking } }

/-- The primary output a loop with this definition presents (R23). -/
def LoopEntry.shown (l : LoopEntry) (d : Definition) : Count := if l.safeSub then d.safeValue else l.primary

/-- The SAFE-marked OUTPUT report of a loop (R24). -/
def LoopEntry.safeReport (l : LoopEntry) (i : LoopId) (d : Definition) (now : Tick) : OutputReport :=
  { loop := i, primary := l.shown d, secondary := if d.includeSecondary then some l.secondary else none
    releaseTick := now, safe := true, stale := false, sat := false }

/-- The loop table with the entries `after`, the SAFE-marked OUTPUT reports offered in ascending loop number for the
loops whose presented primary output differs, and the last-reported value of each the primary its report carries; a
loop with report mode NONE reports nothing (R24). -/
def State.holdLoops (s : State) (after : LoopId → LoopEntry) : State :=
  let report (i : LoopId) : Option OutputReport :=
    (after i).definition.bind fun d =>
      if (after i).shown d ≠ (s.loop i).shown d ∧ d.reportMode ≠ .silent then
        some ((after i).safeReport i d s.time.tick)
      else none
  let told (i : LoopId) : LoopEntry :=
    match report i with
    | some r => { after i with lastReported := some r.primary }
    | none => after i
  ((List.finRange 16).filterMap report).foldl State.offerOutput { s with loops := Vector.ofFn told }

/-- The entry to SAFE with its effects in the order of R183: the mode, the cause and SAFE_N; SAFE_ENTERED; every
ACTIVE loop HELD(SAFE) presenting its safe value, every ARMED loop without its next-release tick, and the reports of
these holds; the computation unit emptied but for an abandoned stage (R183, R25, R115). -/
def State.safeEntry (s : State) (cause : SafeCause) : State :=
  let after (i : LoopId) : LoopEntry :=
    if (s.loop i).state = .active then
      { s.loop i with state := .held .safe, status := .noInstance, nextRelease := none, safeSub := true }
    else if (s.loop i).state = .armed then { s.loop i with nextRelease := none }
    else s.loop i
  let told : State := { s with ctl := { s.ctl with mode := .safe, safeCause := cause, safeN := .low } }
  { (told.offerEngine (.safeEntered cause)).holdLoops after with
    cu := { s.cu with
      due := [], stack := []
      running := if s.cu.state = .stage then s.cu.running.map fun x => { x with abandoned := true } else none } }

/-- The LEC becomes `lec`, and the link is judged from its state before and the new LEC, row by row of the table of
R164: LINK_WARN, LINK_OK and MUTE_LEFT are handed on; entry to MUTE stops the retry timer and claims SAFE with cause
LINK_MUTE; exit from it restarts the timer while entries hold an RSN (R164, R165, R148). -/
def State.lecBecomes (s : State) (lec : Nat) : State :=
  let judged (l : LinkState) : State := { s with link := { s.link with lec := BitVec.ofNat 8 lec, state := l } }
  let muted : State :=
    { judged .mute with rep := { s.rep with retryTimer := none } }.claimSafe .linkMute
  match s.link.state with
  | .ok =>
    if lec ≤ 63 then judged .ok else if lec ≤ 127 then (judged .warn).offerEngine .linkWarn else muted
  | .warn =>
    if lec ≤ 63 then (judged .ok).offerEngine .linkOk else if lec ≤ 127 then judged .warn else muted
  | .mute =>
    if lec ≤ 63 then
      let t := (judged .ok).offerEngine .muteLeft
      { t with rep := { t.rep with
        retryTimer := if 0 < t.rep.store.countP (fun e => e.state != .queued) then some t.rep.retryTimeout
          else t.rep.retryTimer } }
    else judged .mute

/-- The level ALERT_N takes: low while some loop has a latched flag its mask enables (R122). -/
def alertLevel (loops : Vector LoopEntry 16) : Level :=
  if ∃ i : LoopId, loops[i].alarms.latched &&& loops[i].alarms.mask ≠ 0 then .low else .high

/-- The link unit and the supervision timer once a good frame has arrived, ahead of any change of the link state:
the receiver is in HUNT, the start-up hold has ended, and supervision runs from its full interval
(R158, R187, R194). -/
def State.frameArrived (s : State) : State :=
  { s with
    ctl := { s.ctl with supTimer := if s.ctl.supInterval = 0 then none else some s.ctl.supInterval }
    link := { s.link with rx := .hunt, gapTimer := .stopped, startUpHold := false } }

/-- The LEC lowered by 1, not below 0, without a change of the link state (R163). -/
def State.lecLowered (s : State) : State :=
  { s with link := { s.link with lec := BitVec.ofNat 8 (s.link.lec.toNat - 1) } }

/-- The arrival of a good frame that is no overrun: the LEC falls by 1, not below 0, and the link is judged
(R158, R163, R164). -/
def State.goodArrival (s : State) : State := s.frameArrived.lecBecomes (s.link.lec.toNat - 1)

/-- The bytes of a line taken one after another by the receiver (R154). -/
def feed (s : State) (bytes : List Byte) : Host.Outcome State Fault Refusal :=
  bytes.foldl
    (fun o b => match o with
      | .next t => exec (.byteReceived b) t
      | .fault f => .fault f
      | .refused r => .refused r)
    (.next s)

/-- SENT becomes RESEND, as an expiry and a break make it (R144, R149). -/
def resendEntry (e : ReportEntry) : ReportEntry :=
  match e.state with
  | .sent r => { e with state := .resend r }
  | _ => e

/-- How many entries hold an RSN: those that are not QUEUED (R130). -/
def rsnHolders (store : List ReportEntry) : Nat := store.countP fun e => e.state != .queued

/-- Whether a report entry holds the RSN `a` (R130). -/
def ReportEntry.holds (e : ReportEntry) (a : Byte) : Prop := e.state = .sent a ∨ e.state = .resend a

/-- Whether `y` stands ahead of `x` in the due queue: lower priority number, then greater age, then lower loop
number (R99). -/
def StandsAhead (now : Tick) (y x : Instance) : Prop :=
  (y.priority : Nat) < x.priority
    ∨ (y.priority = x.priority
      ∧ ((now - x.releaseTick).toNat < (now - y.releaseTick).toNat
        ∨ ((now - x.releaseTick).toNat = (now - y.releaseTick).toNat ∧ (y.loop : Nat) < x.loop)))

/-! ## Safe runs: the invariants -/

/-- A loop has a live instance: one that no stopping event has abandoned (R98). -/
def CompUnit.live (u : CompUnit) : List Instance :=
  u.due ++ (u.running.toList.filter fun x => !x.abandoned) ++ u.stack

/-- The mode, the loop states and the next-release ticks agree (R6, R9, R81, R181, R182, R165). -/
structure ModeInv (s : State) : Prop where
  safePin : s.ctl.safeN = .low ↔ s.ctl.mode = .safe
  runNotMute : s.ctl.mode = .run → s.link.state ≠ .mute
  activeOnlyInRun : ∀ i, (s.loop i).state = .active → s.ctl.mode = .run
  heldSafeOnlyInSafe : ∀ i, (s.loop i).state = .held .safe → s.ctl.mode = .safe
  scheduled : ∀ i, (s.loop i).nextRelease.isSome = true ↔
    ((s.loop i).state = .active ∨ ((s.loop i).state = .armed ∧ s.ctl.mode = .run))
  emptyIffUndefined : ∀ i, (s.loop i).state = .empty ↔ (s.loop i).definition = none

/-- Where instances stand (R9, R97 to R99, R102, R108, R116). -/
structure UnitInv (s : State) : Prop where
  activeOnly : ∀ i, (s.loop i).status ≠ .noInstance → (s.loop i).state = .active
  dueStatus : ∀ i, (s.loop i).status = .due ↔ ∃ x ∈ s.cu.due, x.loop = i
  stackStatus : ∀ i, (s.loop i).status = .suspended ↔ ∃ x ∈ s.cu.stack, x.loop = i
  runningStatus : ∀ i, (s.loop i).status = .running ↔
    ∃ x, s.cu.running = some x ∧ x.abandoned = false ∧ x.loop = i
  dueOnce : (s.cu.due.map (·.loop)).Nodup
  stackOnce : (s.cu.stack.map (·.loop)).Nodup
  stackDepth : s.cu.stack.length ≤ 3
  stackOrder : (s.cu.stack.map fun x => (x.priority : Nat)).Pairwise (· < ·)
  runningOrder : ∀ x, s.cu.running = some x → ∀ y ∈ s.cu.stack, (x.priority : Nat) < (y.priority : Nat)
  idleEmpty : s.cu.state = .idle → s.cu.due = [] ∧ s.cu.running = none ∧ s.cu.stack = []
  stageRunning : s.cu.state = .stage → s.cu.running.isSome = true
  choiceLive : s.cu.state = .choice → ∀ x, s.cu.running = some x → x.abandoned = false
  waitingLive : ∀ x ∈ s.cu.due ++ s.cu.stack, x.abandoned = false
  stageInProgram : ∀ x ∈ s.cu.live, ∃ d, (s.loop x.loop).definition = some d ∧ x.priority = d.priority
    ∧ 1 ≤ x.nextStage ∧ x.nextStage ≤ d.stages.length
  programLength : ∀ i d, (s.loop i).definition = some d → 1 ≤ d.stages.length ∧ d.stages.length ≤ 4

/-- The loop table, the mode controller and the computation unit together. -/
structure LoopInv (s : State) : Prop where
  mode : ModeInv s
  unit : UnitInv s

/-- The coefficient words of a bank fit the definition: those of the program's stages are legal, and those beyond
it are 0 (R46, R52). -/
def BankFits (d : Definition) (b : Bank) : Prop :=
  ∀ k : Fin 4, match d.stages[(k : Nat)]? with
    | some st => LegalCoefs st.op b[k]
    | none => b[k] = ⟨0, 0, 0, 0⟩

/-- Definitions and banks (R13, R46, R52). -/
structure CoefInv (s : State) : Prop where
  legal : ∀ i d, (s.loop i).definition = some d → d.Legal
  active : ∀ i d, (s.loop i).definition = some d → BankFits d (s.loop i).activeBank
  pending : ∀ i d, (s.loop i).definition = some d → BankFits d (s.loop i).pendingBank
  absent : ∀ i, (s.loop i).definition = none →
    (s.loop i).activeBank = Vector.replicate 4 ⟨0, 0, 0, 0⟩
      ∧ (s.loop i).pendingBank = Vector.replicate 4 ⟨0, 0, 0, 0⟩

/-- A stage's memory words as R5 gives them for its op (`none` beyond the program): within their ranges, 0 where the
op uses none, and 0 while the stage is unseeded (R5, R50). -/
def MemFits (op : Option StageOp) (m : StageMem) : Prop :=
  m.word3 = 0 ∧ (m.seeded = false → m.word1 = 0 ∧ m.word2 = 0)
    ∧ match op with
      | some .lpf => m.word2 = 0
      | some .pid => -134213632 ≤ m.word1.toInt ∧ m.word1.toInt ≤ 134213632
          ∧ -65535 ≤ m.word2.toInt ∧ m.word2.toInt ≤ 65535
      | some .limit => -32768 ≤ m.word1.toInt ∧ m.word1.toInt ≤ 32767 ∧ m.word2 = 0
      | some _ => m.word1 = 0 ∧ m.word2 = 0
      | none => m.seeded = false

/-- The memory words a stage proposes are those its op uses, within their ranges (R5, R30). -/
def ProposalFits (op : Option StageOp) (q : Proposal) : Prop :=
  match op with
  | some .lpf => q.word2 = none
  | some .pid => -134213632 ≤ q.word1.toInt ∧ q.word1.toInt ≤ 134213632
      ∧ ∃ w, q.word2 = some w ∧ -65535 ≤ w.toInt ∧ w.toInt ≤ 65535
  | some .limit => -32768 ≤ q.word1.toInt ∧ q.word1.toInt ≤ 32767 ∧ q.word2 = none
  | _ => False

/-- The runtime memory of every loop and the proposals of every live instance (R5, R30, R50). -/
structure MemInv (s : State) : Prop where
  words : ∀ i (k : Fin 4),
    MemFits (((s.loop i).definition.bind fun d => d.stages[(k : Nat)]?).map (·.op)) (s.loop i).mem[k]
  inFlight : ∀ x ∈ s.cu.live, ∀ (k : Fin 4) q, x.proposals[k] = some q →
    ProposalFits (((s.loop x.loop).definition.bind fun d => d.stages[(k : Nat)]?).map (·.op)) q

/-- An entry of the loops' own traffic: an OUTPUT or an ALARM report (R132). -/
def ReportEntry.ofLoops (e : ReportEntry) : Bool :=
  match e.report with
  | .output _ => true
  | .alarm _ => true
  | _ => false

/-- The report store (R130, R132, R142 to R144, R148). -/
structure StoreInv (s : State) : Prop where
  size : s.rep.store.length ≤ 24
  ofLoops : s.rep.store.countP ReportEntry.ofLoops ≤ 22
  oneOutput : ∀ i, s.rep.store.countP (ReportEntry.queuedOutputOf i) ≤ 1
  oneAlarm : ∀ i, s.rep.store.countP (ReportEntry.queuedAlarmOf i) ≤ 1
  /-- the RSN holders form the head of the store, with consecutive RSNs that end just below the next one -/
  numbered : ∀ k e, s.rep.store[k]? = some e →
    e.state.rsn? = if k < s.rep.holding then some (s.rep.nextRsn - BitVec.ofNat 8 (s.rep.holding - k)) else none
  inFlight : s.rep.holding ≤ 16
  windows : s.rep.window ≤ 16 ∧ s.rep.defaultWindow ≤ 16 ∧ s.rep.retryLimit ≤ 7
  firstRetry : ∀ e, s.rep.store.head? = some e → e.retryCount ≤ 7
  laterRetries : ∀ e ∈ s.rep.store.tail, e.retryCount = 0
  timerRuns : s.rep.retryTimer.isSome = true → 0 < s.rep.holding ∧ s.link.state ≠ .mute
  owedKinds : s.rep.engineOwed.Pairwise fun a b => a.sameKind b = false
  owedNoRoom : s.rep.engineOwed ≠ [] → 24 ≤ s.rep.store.length
  emptyInReset : s.power = .inReset → s.rep.store = []

/-- The alarm records, the owed sets and ALERT_N (R118, R121, R122, R125, R139). -/
structure AlarmInv (s : State) : Prop where
  owed : ∀ i, (s.loop i).alarms.owed &&& ~~~((s.loop i).alarms.latched &&& (s.loop i).alarms.mask) = 0
  pin : s.alertN = .low ↔ ∃ i, (s.loop i).alarms.latched &&& (s.loop i).alarms.mask ≠ 0
  owedNoRoom : ∀ i, (s.loop i).alarms.owed ≠ 0 →
    22 ≤ s.rep.store.length ∧ s.rep.store.any (ReportEntry.queuedAlarmOf i) = false

/-- The transmitter sends the response to a RESET, or the response queue holds it (R191, R192). -/
def LinkUnit.resetAnswered (l : LinkUnit) : Bool :=
  (match l.tx with
    | .sending _ b => b
    | .idle => false) || l.responses.any (·.ofReset)

/-- A partial frame as far as it can have come (R153, R154). -/
def Receiver.Fits : Receiver → Prop
  | .hunt => True
  | .header got => got.length ≤ 2
  | .body _ _ len payload => payload.length < len.toNat ∧ len.toNat ≤ 240
  | .check _ _ payload _ => payload.length ≤ 240

/-- The link unit (R154, R157, R159 to R161, R163, R164, R167, R171, R191). -/
structure LinkInv (s : State) : Prop where
  slots : s.link.slots.length ≤ 4
  responses : s.link.responses.length ≤ 4
  taken : s.link.slots ≠ [] → s.link.responses.length = 4 ∨ s.ctl.resetPending = true
  idleEmpty : s.link.tx = .idle → s.link.responses = []
  resetPending : s.ctl.resetPending = s.link.resetAnswered
  judged : match s.link.state with
    | .ok => s.link.lec.toNat ≤ 63
    | .warn => 64 ≤ s.link.lec.toNat ∧ s.link.lec.toNat ≤ 127
    | .mute => 64 ≤ s.link.lec.toNat
  partialFrame : s.link.rx.Fits
  huntStopped : s.link.rx = .hunt ↔ s.link.gapTimer = .stopped
  runningTakes : s.link.gapTimer = .running → s.link.rxd = .taking
  heldUndecided : s.link.gapTimer = .held → s.link.rxd = .undecided
  huntInReset : s.power = .inReset → s.link.rx = .hunt

/-- A state every run from reset stays in. -/
structure Inv (s : State) : Prop where
  loops : LoopInv s
  coefs : CoefInv s
  mem : MemInv s
  store : StoreInv s
  alarms : AlarmInv s
  link : LinkInv s

end Sys2Proof.Machine
end

