-- ==== Sys2Proof/Certificates/Slice0/Obligations.lean ====
section
/-! DEFINITION. The statements for the provers: what the rules of the manual say the commands do. -/

open Sys2Proof Sys2Proof.Machine

/-! ## The step -/

/-- A step carries out the command at the front of the queue with the queue's rest; on an empty queue the part
idles (log entry 7, the model's choice). -/
def Obligations.StepCarriesOutTheFrontCommand : Prop :=
  ∀ s : State,
    (∀ c rest, s.pending = c :: rest → step s = exec c { s with pending := rest })
      ∧ (s.pending = [] → step s = .next s)

/-- Every command answers a next state in every state, and none touches the queue of waiting commands. That a command
whose condition does not hold, or whose payload no frame carries, runs as well is the model's choice (log entries 9
and 16), and so is the queue, the model's own field, which no command and no reset reaches (log entry 21). -/
def Obligations.EveryCommandAnswersNext : Prop :=
  ∀ (c : Instr) (s : State), ∃ t, exec c s = .next t ∧ t.pending = s.pending

/-! ## Resets and start-up -/

/-- While the part is held in reset no byte is taken and no event occurs (R193): every command but the resets and
START_UP leaves it as it stands (log entry 4). At start-up the BOOT report is admitted with the reset cause, the
power-on flag and the revision, the start-up hold begins, and a low RXD is waited out (R138, R193, R194, R167).
That START_UP on a part that is not in reset leaves the state is the model's choice (log entries 4 and 9). -/
def Obligations.ResetHoldsThePartUntilStartUp : Prop :=
  (∀ (c : Instr) (s : State), s.power = .inReset → (∀ st, c ≠ .powerOnReset st) → (∀ st, c ≠ .pinReset st) →
      (∀ b, c ≠ .startUp b) → exec c s = .next s)
  ∧ (∀ (low : Bool) (s : State),
      (s.power = .inReset → exec (.startUp low) s = .next
        { s with
          power := .running
          rep := { s.rep with
            store := s.rep.store ++ [⟨.boot s.ctl.resetCause s.ctl.powerOnFlag 0x01, .queued, 0⟩] }
          link := { s.link with startUpHold := true, rxd := if low then .startUpLow else .taking } })
      ∧ (s.power = .running → exec (.startUp low) s = .next s))

/-- A power-on reset and a low RST_N give every block its reset values (R193), with the reset cause record of
R189. That a low RST_N on a part still in a power-on reset records POWER_ON is read from R189 (log entry 17, DEDUCED).
The model's own queue and choice counter stay (log entry 21, the model's choice). State.reset is the state a power-on
reset gives, with the straps at 00 (log entry 4, the model's choice). -/
def Obligations.FullResetGivesTheResetValues : Prop :=
  (∀ straps s, exec (.powerOnReset straps) s = .next (resetValues .powerOn true straps s.choices s.pending))
  ∧ (∀ straps s, s.power = .running →
      exec (.pinReset straps) s = .next (resetValues .pin s.ctl.powerOnFlag straps s.choices s.pending))
  ∧ (∀ straps s, s.power = .inReset → exec (.pinReset straps) s = .next
      (resetValues (if s.ctl.resetCause = .powerOn then .powerOn else .pin) s.ctl.powerOnFlag straps s.choices
        s.pending))
  ∧ State.reset = resetValues .powerOn true 0 0 []

/-! ## The engine requests -/

/-- IDENTIFY answers the fixed values and changes nothing (R176). CLEAR_CAUSE answers OK and clears the power-on
flag; the reset cause, the report store and everything else are kept (R190). -/
def Obligations.IdentifyAndClearCauseAnswer : Prop :=
  (∀ (s : State) (tag : Byte), s.Accepting →
      exec (.identify tag []) s = .next (s.reply 0x81 tag [0x00, 0x04, 0x16, 0x01, 16, 32, 4, 3, 24]))
  ∧ (∀ (s : State) (tag : Byte), s.Accepting →
      exec (.clearCause tag []) s = .next ({ s with ctl := { s.ctl with powerOnFlag := false } }.reply 0x88 tag [0x00]))

/-- PING answers the tick count; STATUS answers 37 bytes read at the one event; neither changes anything
(R179, R177, 10.3). Every enumerated value has its code of 10.2 (`EnumCodes`; the three target codes are GAIN's, in
`GainSumAndDivAreExact`). Where a report stands on offer to an idle transmitter, that STATUS does not yet count it among
the entries holding an RSN is the model's choice (log entry 25). -/
def Obligations.PingAndStatusReadTheEngine : Prop :=
  EnumCodes
  ∧ (∀ (s : State) (tag : Byte), s.Accepting →
    exec (.ping tag []) s = .next (s.reply 0x84 tag (0x00 :: bytes32 s.time.tick)))
  ∧ ∀ (s : State) (tag : Byte), s.Accepting → ∃ p : List Byte,
    exec (.status tag []) s = .next (s.reply 0x82 tag p) ∧ p.length = 37 ∧ byteAt p 0 = 0x00
      ∧ byteAt p 1 = (match s.ctl.mode with | .safe => 0x00 | .run => 0x01)
      ∧ byteAt p 2 = (match s.ctl.safeCause with
          | .reset => 0x00 | .host => 0x01 | .supervision => 0x02 | .linkMute => 0x03)
      ∧ byteAt p 3 = (match s.link.state with | .ok => 0x00 | .warn => 0x01 | .mute => 0x02)
      ∧ byteAt p 4 = s.link.lec
      ∧ word16At p 5 = s.link.counters.crcErrors ∧ word16At p 7 = s.link.counters.lengthErrors
      ∧ word16At p 9 = s.link.counters.gapErrors ∧ word16At p 11 = s.link.counters.overruns
      ∧ word16At p 13 = s.link.counters.protocolErrors ∧ word16At p 15 = s.link.counters.breaks
      ∧ byteAt p 17 = (match s.ctl.resetCause with | .powerOn => 0x00 | .pin => 0x01 | .command => 0x02)
      ∧ byteAt p 18 = (if s.ctl.powerOnFlag then 0x01 else 0x00)
      ∧ word32At p 19 = s.time.tick ∧ byteAt p 23 = BitVec.ofNat 8 s.time.tickLength
      ∧ word16At p 24 = BitVec.ofNat 16 s.ctl.supInterval ∧ byteAt p 26 = BitVec.ofNat 8 s.rep.window
      ∧ byteAt p 27 = BitVec.ofNat 8 s.rep.defaultWindow ∧ word16At p 28 = BitVec.ofNat 16 s.rep.retryTimeout
      ∧ byteAt p 30 = BitVec.ofNat 8 s.rep.retryLimit ∧ byteAt p 31 = BitVec.ofNat 8 s.rep.store.length
      ∧ byteAt p 32 = BitVec.ofNat 8 (s.rep.store.countP fun e => e.state != .queued)
      ∧ word16At p 33 = s.rep.droppedCount ∧ byteAt p 35 = BitVec.ofNat 8 s.cu.due.length
      ∧ byteAt p 36 = BitVec.ofNat 8 s.cu.stack.length

/-- CONFIGURE: BAD_FIELD for a field out of its range, MODE in RUN, and otherwise all five settings stored in one
event, the supervision timer restarted with the new interval (R178, R79, R150, R187). Where a report stands on offer to
an idle transmitter already, that its taking starts the retry timer with the new timeout is the model's choice (log
entry 25). -/
def Obligations.ConfigureStoresItsFiveSettings : Prop :=
  ∀ (s : State) (tag n window limit : Byte) (interval timeout : BitVec 16), s.Accepting →
    let p := [n] ++ bytes16 interval ++ [window] ++ bytes16 timeout ++ [limit]
    let bad := n = 0 ∨ 200 < n.toNat ∨ 60000 < interval.toNat ∨ 16 < window.toNat ∨ timeout = 0
      ∨ 1000 < timeout.toNat ∨ 7 < limit.toNat
    (bad → exec (.configure tag p) s = .next (s.reply 0x83 tag [0x03]))
    ∧ (¬bad → s.ctl.mode = .run → exec (.configure tag p) s = .next (s.reply 0x83 tag [0x06]))
    ∧ (¬bad → s.ctl.mode = .safe → exec (.configure tag p) s = .next
        ({ s with
          time := { s.time with tickLength := n.toNat }
          ctl := { s.ctl with
            supInterval := interval.toNat
            supTimer := if interval = 0 then none else some interval.toNat }
          rep := { s.rep with
            defaultWindow := window.toNat, retryTimeout := timeout.toNat, retryLimit := limit.toNat } }.reply
          0x83 tag [0x00]))

/-- A claim to enter SAFE, whatever its cause, changes nothing in SAFE; in RUN it makes the entry: the mode is SAFE
with the claim's cause, SAFE_N is low, SAFE_ENTERED with the cause is handed on, the ACTIVE loops are HELD(SAFE) and
their SAFE-marked OUTPUT reports follow in ascending loop number, and the computation unit is emptied but for an
abandoned stage (R183, R24, R25, R115, R182; `State.safeEntry` says it field by field). ENTER_SAFE answers OK: in SAFE
it changes nothing, and in RUN it is a claim with cause HOST, whose effects precede the response (R185). RESET answers
OK with the response that brings the full reset, and stops the dispatcher (R191, R171). -/
def Obligations.EnterSafeAndResetAreTaken : Prop :=
  (∀ (s : State) (cause : SafeCause),
      (s.ctl.mode = .safe → s.claimSafe cause = s)
      ∧ (s.ctl.mode = .run → s.claimSafe cause = (s.safeEntry cause).settleChoice
        ∧ (s.safeEntry cause).ctl = { s.ctl with mode := .safe, safeCause := cause, safeN := .low }
        ∧ ∀ i, (s.loop i).state = .active → ((s.safeEntry cause).loop i).state = .held .safe))
  ∧ (∀ (s : State) (tag : Byte), s.Accepting →
      (s.ctl.mode = .safe → exec (.enterSafe tag []) s = .next (s.reply 0x85 tag [0x00]))
      ∧ (s.ctl.mode = .run →
        exec (.enterSafe tag []) s = .next ((s.safeEntry .host).settleChoice.reply 0x85 tag [0x00])))
  ∧ (∀ (s : State) (tag : Byte), s.Accepting →
      exec (.reset tag []) s = .next
        ({ s with ctl := { s.ctl with resetPending := true } }.reply 0x87 tag [0x00] (ofReset := true)))

/-- RESUME: LINK_MUTED while the link is MUTE; in RUN nothing changes; in SAFE the mode becomes RUN with the SAFE
cause kept, SAFE_N is released, RUN_ENTERED is handed to the report unit, every HELD(SAFE) loop becomes ARMED, and
every loop then ARMED takes the event as its arming point (R186, R26, R82). -/
def Obligations.ResumeEntersRun : Prop :=
  ∀ (s : State) (tag : Byte), s.Accepting →
    let next (l : LoopEntry) : Option Tick :=
      l.definition.map fun d => firstRelease s.time.tick d.period d.offset
    let entered (l : LoopEntry) : LoopEntry :=
      if l.state = .held .safe then { l with state := .armed, missCount := 0, nextRelease := next l }
      else if l.state = .armed then { l with nextRelease := next l }
      else l
    (s.link.state = .mute → exec (.resume tag []) s = .next (s.reply 0x86 tag [0x08]))
    ∧ (s.link.state ≠ .mute → s.ctl.mode = .run → exec (.resume tag []) s = .next (s.reply 0x86 tag [0x00]))
    ∧ (s.link.state ≠ .mute → s.ctl.mode = .safe → exec (.resume tag []) s = .next
        (({ s with
          ctl := { s.ctl with mode := .run, safeN := .high }
          loops := Vector.ofFn fun i : LoopId => entered (s.loop i) }.offerEngine .runEntered).reply 0x86 tag [0x00]))

/-- A supervision expiry restarts the timer; in SAFE it does nothing else, and in RUN the engine enters SAFE:
every ACTIVE loop becomes HELD(SAFE) presenting its safe value, every ARMED loop loses its next-release tick,
every other loop stays as it is, the computation unit is emptied but for an abandoned stage, and SAFE_ENTERED with
cause SUPERVISION is handed on ahead of the SAFE-marked OUTPUT reports, in ascending loop number
(R188, R183, R24, R25, R115); `State.safeEntry` says the whole entry, and a pending choice is then made as R105 gives. A
stopped timer does not expire: that the command then leaves the state is the model's choice (log entry 9). -/
def Obligations.SupervisionExpiryEntersSafe : Prop :=
  ∀ s : State, s.power = .running →
    let timer := if s.ctl.supInterval = 0 then none else some s.ctl.supInterval
    (s.ctl.supTimer = none → exec .supervisionExpiry s = .next s)
    ∧ (s.ctl.supTimer ≠ none → s.ctl.mode = .safe →
        exec .supervisionExpiry s = .next { s with ctl := { s.ctl with supTimer := timer } }.transmit)
    ∧ (s.ctl.supTimer ≠ none → s.ctl.mode = .run → ∃ t : State,
        exec .supervisionExpiry s = .next t.transmit
        ∧ t = (State.safeEntry { s with ctl := { s.ctl with supTimer := timer } } .supervision).settleChoice
        ∧ t = { s with
            loops := t.loops, rep := t.rep, cu := t.cu
            ctl := { s.ctl with mode := .safe, safeCause := .supervision, safeN := .low, supTimer := timer } }
        ∧ (∀ i, (s.loop i).state = .active →
            { t.loop i with lastReported := (s.loop i).lastReported, stats := (s.loop i).stats }
              = { s.loop i with state := .held .safe, status := .noInstance, nextRelease := none, safeSub := true })
        ∧ (∀ i, (s.loop i).state = .armed → t.loop i = { s.loop i with nextRelease := none })
        ∧ (∀ i, (s.loop i).state ≠ .active → (s.loop i).state ≠ .armed → t.loop i = s.loop i)
        ∧ t.cu.due = [] ∧ t.cu.stack = []
        ∧ (s.cu.state = .stage → t.cu.state = .stage
            ∧ t.cu.running = s.cu.running.map fun x => { x with abandoned := true })
        ∧ (s.cu.state ≠ .stage → t.cu.running = none)
        ∧ t.rep = (s.safeEntry .supervision).rep ∧ t.loops = (s.safeEntry .supervision).loops)

/-! ## Requests that read -/

/-- READ_LOOP answers 132 bytes of the whole entry in every state of the loop, BAD_FIELD for a loop number above
15, and changes nothing (R21, R12, 10.3). -/
def Obligations.ReadLoopReturnsTheEntry : Prop :=
  (∀ (s : State) (tag : Byte) (i : LoopId), s.Accepting → ∃ p : List Byte,
    exec (.readLoop tag [natByte i]) s = .next (s.reply 0x95 tag p)
    ∧ p.length = 132 ∧ byteAt p 0 = 0x00
    ∧ byteAt p 1 = (match (s.loop i).state with
        | .empty => 0x00 | .idle => 0x01 | .armed => 0x02 | .active => 0x03 | .held _ => 0x04 | .faulted => 0x05)
    ∧ byteAt p 2 = (match (s.loop i).state with | .held .host => 0x01 | .held .safe => 0x02 | _ => 0x00)
    ∧ byteAt p 3 = (match (s.loop i).status with
        | .noInstance => 0x00 | .due => 0x01 | .running => 0x02 | .suspended => 0x03)
    ∧ byteAt p 4 = boolByte (s.loop i).nextRelease.isSome ∧ word32At p 5 = (s.loop i).nextRelease.getD 0
    ∧ byteAt p 9 = (s.loop i).missCount ∧ byteAt p 10 = boolByte (s.loop i).outputValid
    ∧ byteAt p 11 = boolByte (s.loop i).safeSub ∧ word16At p 12 = (s.loop i).primary
    ∧ word16At p 14 = (s.loop i).secondary ∧ word16At p 16 = s.supplied (.primary i)
    ∧ (p.drop 18).take 27 = (match (s.loop i).definition with
        | none => List.replicate 27 0
        | some d => ((defineLoopBytes i d []).drop 1).take 27)
    ∧ (∀ k : Fin 4, (p.drop (45 + 4 * (k : Nat))).take 4 =
        match (s.loop i).definition.bind fun d => d.stages[(k : Nat)]? with
        | none => [0, 0, 0, 0]
        | some st =>
          [match st.op with
            | .gain => 0x01 | .sum => 0x02 | .lpf => 0x03 | .pid => 0x04
            | .div => 0x05 | .rotate => 0x06 | .atan => 0x07 | .limit => 0x08,
            st.target, natByte st.shift, boolByte st.setpointFromB])
    ∧ (∀ k : Fin 4, (p.drop (61 + 13 * (k : Nat))).take 13 =
        match (s.loop i).definition.bind fun d => d.stages[(k : Nat)]? with
        | none => List.replicate 13 0
        | some _ =>
          let m := (s.loop i).mem[k]
          bytes32 m.word1 ++ bytes32 m.word2 ++ bytes32 m.word3 ++ [boolByte m.seeded])
    ∧ byteAt p 113 = boolByte (s.loop i).commitPending
    ∧ byteAt p 114 = boolByte (s.loop i).lastReported.isSome
    ∧ word16At p 115 = (s.loop i).lastReported.getD 0 ∧ byteAt p 117 = (s.loop i).divideCounter
    ∧ word16At p 118 = (s.loop i).stats.releasesTaken ∧ word16At p 120 = (s.loop i).stats.completions
    ∧ word16At p 122 = (s.loop i).stats.misses ∧ word16At p 124 = (s.loop i).stats.skips
    ∧ word16At p 126 = (s.loop i).stats.preemptions ∧ word16At p 128 = (s.loop i).stats.saturations
    ∧ word16At p 130 = (s.loop i).stats.outputsDropped)
  ∧ ∀ (s : State) (tag b : Byte), s.Accepting → 15 < b.toNat →
      exec (.readLoop tag [b]) s = .next (s.reply 0x95 tag [0x03])

/-- READ_COEF answers the loop's state, its stage count, its commit-pending flag and the sixteen words of the bank
named; READ_ALARMS answers the level of ALERT_N and the three sets of every loop; neither changes anything
(R61, R123, 10.3). -/
def Obligations.ReadCoefAndReadAlarmsReturnWhatStands : Prop :=
  (∀ (s : State) (tag : Byte) (i : LoopId) (sel : Byte), s.Accepting →
    let words (b : Bank) : List Byte :=
      (List.finRange 4).flatMap fun k => bytes16 b[k].c0 ++ bytes16 b[k].c1 ++ bytes16 b[k].c2 ++ bytes16 b[k].c3
    let head : List Byte := [0x00,
      match (s.loop i).state with
        | .empty => 0x00 | .idle => 0x01 | .armed => 0x02 | .active => 0x03 | .held _ => 0x04 | .faulted => 0x05,
      natByte (match (s.loop i).definition with | none => 0 | some d => d.stages.length),
      boolByte (s.loop i).commitPending]
    (sel = 0 → exec (.readCoef tag [natByte i, sel]) s
      = .next (s.reply 0x9A tag (head ++ words (s.loop i).activeBank)))
    ∧ (sel = 1 → exec (.readCoef tag [natByte i, sel]) s
      = .next (s.reply 0x9A tag (head ++ words (s.loop i).pendingBank)))
    ∧ (1 < sel.toNat → exec (.readCoef tag [natByte i, sel]) s = .next (s.reply 0x9A tag [0x03])))
  ∧ (∀ (s : State) (tag b sel : Byte), s.Accepting → 15 < b.toNat →
      exec (.readCoef tag [b, sel]) s = .next (s.reply 0x9A tag [0x03]))
  ∧ ∀ (s : State) (tag : Byte), s.Accepting → exec (.readAlarms tag []) s = .next
      (s.reply 0xA8 tag (0x00 :: (if s.alertN = .high then 0x00 else 0x01) :: (List.finRange 16).flatMap fun i =>
        [(s.loop i).alarms.latched.setWidth 8, (s.loop i).alarms.mask.setWidth 8,
          (s.loop i).alarms.owed.setWidth 8]))

/-- READ_SAMPLES answers value, stamp and written flag of each slot of a range that does not run past S31, and
BAD_FIELD for every other range; it changes nothing (R68). WRITE_SAMPLES writes every slot it names with the value
of the last pair naming it, the one tick count as the stamp, and a set written flag, and answers that stamp; no pair
of a request with a pair count of 0 or above 16, or with a slot above 31, is written (R65, R66). -/
def Obligations.SamplesAreReadAndWritten : Prop :=
  (∀ (s : State) (tag first n : Byte), s.Accepting →
      (31 < first.toNat ∨ n = 0 ∨ 32 < n.toNat ∨ 32 < first.toNat + n.toNat →
        exec (.readSamples tag [first, n]) s = .next (s.reply 0xA1 tag [0x03]))
      ∧ (first.toNat ≤ 31 → n ≠ 0 → first.toNat + n.toNat ≤ 32 → ∃ p : List Byte,
          exec (.readSamples tag [first, n]) s = .next (s.reply 0xA1 tag p)
          ∧ p.length = 1 + 7 * n.toNat ∧ byteAt p 0 = 0x00
          ∧ ∀ (j : Nat) (k : SlotId), j < n.toNat → (k : Nat) = first.toNat + j →
              word16At p (1 + 7 * j) = (s.slot k).value ∧ word32At p (3 + 7 * j) = (s.slot k).stamp
                ∧ byteAt p (7 + 7 * j) = boolByte (s.slot k).written))
  ∧ ((∀ (s : State) (tag : Byte) (pairs : List (SlotId × Count)), s.Accepting → 1 ≤ pairs.length →
      pairs.length ≤ 16 →
      exec (.writeSamples tag (writeSamplesBytes pairs)) s = .next
        ({ s with
          samples := Vector.ofFn fun k : SlotId =>
            match pairs.reverse.find? (fun q : SlotId × Count => q.1 = k) with
            | some q => { value := q.2, stamp := s.time.tick, written := true }
            | none => s.slot k }.reply 0xA0 tag (0x00 :: bytes32 s.time.tick)))
    ∧ (∀ (s : State) (tag n : Byte) (body : List Byte), s.Accepting → body.length = 3 * n.toNat →
        (n = 0 ∨ 16 < n.toNat ∨ ∃ j, j < n.toNat ∧ 31 < (byteAt body (3 * j)).toNat) →
        exec (.writeSamples tag (n :: body)) s = .next (s.reply 0xA0 tag [0x03])))

/-! ## Loop requests -/

/-- Decode and encode agree for definitions: the payload the host builds from the layout of 10.3 for any legal
definition and coefficient words, the enumerated fields by the codes of 10.2, is stored field by field, with the banks'
unused words 0 and everything else started afresh; in a state other than EMPTY and IDLE the request is refused with
STATE (R13, R14, R126, R174). Any other payload the host may build for that definition has exactly the same effect: a
setpoint-from-b or include-secondary byte counts only as zero or not, and the index byte of a ZERO binding and of an
absent input B counts for nothing (R174). -/
def Obligations.DefineLoopStoresEveryField : Prop :=
  (∀ (s : State) (tag : Byte) (p q : List Byte), s.Accepting → p.length = q.length →
    (∀ j, byteAt p j = byteAt q j
      ∨ (byteAt p j ≠ 0 ∧ byteAt q j ≠ 0 ∧ (j = 26 ∨ ∃ k, j = 28 + 12 * k + 3))
      ∨ (j = 7 ∧ byteAt p 6 = 0x00)
      ∨ (j = 9 ∧ (byteAt p 8 = 0x00 ∨ byteAt p 8 = 0xFF))) →
    exec (.defineLoop tag p) s = exec (.defineLoop tag q) s)
  ∧ ∀ (s : State) (tag : Byte) (i : LoopId) (d : Definition) (cs : List Coefs), s.Accepting → d.Legal →
    cs.length = d.stages.length → (∀ q ∈ d.stages.zip cs, LegalCoefs q.1.op q.2) →
    let bank : Bank := Vector.ofFn fun k : Fin 4 => cs.getD k ⟨0, 0, 0, 0⟩
    let entry : LoopEntry := { resetLoop with
      definition := some d, activeBank := bank, pendingBank := bank, state := .idle
      alarms := { latched := 0, mask := d.alarmMask, owed := 0 } }
    let loops := s.loops.set i entry
    ((s.loop i).state = .empty ∨ (s.loop i).state = .idle →
      exec (.defineLoop tag (defineLoopBytes i d cs)) s
        = .next ({ s with loops := loops, alertN := alertLevel loops }.reply 0x90 tag [0x00]))
    ∧ ((s.loop i).state ≠ .empty → (s.loop i).state ≠ .idle →
      exec (.defineLoop tag (defineLoopBytes i d cs)) s = .next (s.reply 0x90 tag [0x05]))

/-- A DEFINE_LOOP of the right length fails the field check with BAD_FIELD for each range R13 names, and writes
nothing (R13, R174, 10.2). `b` and `w` are the bytes and the two-byte fields of the payload. -/
def Obligations.DefineLoopRefusesBadFields : Prop :=
  ∀ (s : State) (tag : Byte) (p : List Byte), s.Accepting →
    let b (j : Nat) : Nat := (byteAt p j).toNat
    let w (j : Nat) : Nat := (word16At p j).toNat
    let sw (j : Nat) : Int := (word16At p j).toInt
    let badBinding (f x : Nat) : Prop :=
      3 < f ∨ (f = 1 ∧ 31 < x) ∨ (f = 2 ∧ 15 < x) ∨ (f = 3 ∧ 15 < x)
    let badStage (e : Nat) : Prop :=
      b e = 0 ∨ 8 < b e ∨ 15 < b (e + 2) ∨ (b e = 1 ∧ 2 < b (e + 1))
        ∨ (b e = 3 ∧ sw (e + 4) < 0) ∨ (b e = 8 ∧ sw (e + 6) < sw (e + 4))
    11 ≤ p.length → p.length = 28 + 12 * b 10 →
    (15 < b 0 ∨ 7 < b 1 ∨ w 2 = 0 ∨ w 2 ≤ w 4 ∨ badBinding (b 6) (b 7) ∨ (b 8 ≠ 255 ∧ badBinding (b 8) (b 9))
      ∨ b 10 = 0 ∨ 4 < b 10 ∨ sw 13 < sw 11 ∨ sw 15 < sw 11 ∨ sw 13 < sw 15
      ∨ 1 < b 17 ∨ 2 < b 18 ∨ 1 < b 22 ∨ 3 < b 23 ∨ (b 23 = 1 ∧ (w 24 < 2 ∨ 255 < w 24))
      ∨ (b 23 = 2 ∧ w 24 = 0) ∨ 31 < b 27 ∨ ∃ k, k < b 10 ∧ badStage (28 + 12 * k)) →
    exec (.defineLoop tag p) s = .next (s.reply 0x90 tag [0x03])

/-- ARM_LOOP, where every named loop is IDLE, ARMED or FAULTED: each named loop not yet ARMED is armed with fresh
runtime memory, a loop already ARMED and every unnamed loop is unchanged, and nothing else changes (R15, R16).
UNHOLD_LOOP, where every named loop is HELD(HOST): each becomes ARMED with its consecutive-miss count 0 and, with
the engine in RUN, this event as its arming point; all else is kept (R15, R18). -/
def Obligations.ArmAndUnholdArmTheNamedLoops : Prop :=
  (∀ (s : State) (tag : Byte) (m : LoopMask), s.Accepting → m ≠ 0 →
      (∀ i, names m i = true →
        (s.loop i).state = .idle ∨ (s.loop i).state = .armed ∨ (s.loop i).state = .faulted) →
      let next (l : LoopEntry) : Option Tick :=
        if s.ctl.mode = .run then l.definition.map fun d => firstRelease s.time.tick d.period d.offset else none
      let arm (i : LoopId) : LoopEntry :=
        if names m i = true ∧ (s.loop i).state ≠ .armed then
          { s.loop i with
            primary := 0, secondary := 0, mem := Vector.replicate 4 ⟨0, 0, 0, false⟩
            outputValid := false, safeSub := false, missCount := 0, lastReported := none, divideCounter := 0
            state := .armed, nextRelease := next (s.loop i) }
        else s.loop i
      exec (.armLoop tag (bytes16 m)) s = .next
        ({ s with loops := Vector.ofFn arm }.reply 0x91 tag [0x00, 0x00, 0x00]))
  ∧ (∀ (s : State) (tag : Byte) (m : LoopMask), s.Accepting → m ≠ 0 →
      (∀ i, names m i = true → (s.loop i).state = .held .host) →
      let next (l : LoopEntry) : Option Tick :=
        if s.ctl.mode = .run then l.definition.map fun d => firstRelease s.time.tick d.period d.offset else none
      let unhold (i : LoopId) : LoopEntry :=
        if names m i = true then
          { s.loop i with state := .armed, missCount := 0, nextRelease := next (s.loop i) }
        else s.loop i
      exec (.unholdLoop tag (bytes16 m)) s = .next
        ({ s with loops := Vector.ofFn unhold }.reply 0x93 tag [0x00, 0x00, 0x00]))

/-- HOLD_LOOP, where every named loop is ARMED, ACTIVE or HELD: each not yet HELD(HOST) becomes HELD(HOST) with no
instance and no next-release tick, safe substitution set under hold action SAFE and kept under LAST; for each whose
presented primary output this changes, in ascending loop number, a SAFE-marked OUTPUT report is offered and its primary
is the last-reported value, unless the report mode is NONE; a loop already HELD(HOST) and every unnamed loop is
unchanged; the named loops' instances leave the due queue and the stack, and a running one is abandoned in its stage or
dropped at its boundary; a pending choice may then be made (R15, R17, R24, R10, R111 to R113, R105). The SAFE-marked
OUTPUT report of R24 carries the presented primary output, the secondary where the definition includes it, the tick
count as its release tick, and the SAFE mark alone; it is offered as every OUTPUT report is. Where a report stands on
offer to an idle transmitter already, that the offers come before its taking is the model's choice (log entry 25). -/
def Obligations.HoldLoopHoldsTheNamedLoops : Prop :=
  (∀ (s : State) (tag : Byte) (m : LoopMask), s.Accepting → LoopInv s → m ≠ 0 →
    (∀ i, names m i = true → (s.loop i).state = .armed ∨ (s.loop i).state = .active
      ∨ (s.loop i).state = .held .host ∨ (s.loop i).state = .held .safe) →
    let substituted (l : LoopEntry) : Bool :=
      match l.definition with
      | some d => if d.holdAction = .safe then true else l.safeSub
      | none => l.safeSub
    let after (i : LoopId) : LoopEntry :=
      if names m i = true ∧ (s.loop i).state ≠ .held .host then
        { s.loop i with
          state := .held .host, status := .noInstance, nextRelease := none, safeSub := substituted (s.loop i) }
      else s.loop i
    let kept (x : Instance) : Option Instance :=
      if names m x.loop = false then some x
      else if s.cu.state = .stage then some { x with abandoned := true }
      else none
    let ended : CompUnit := { s.cu with
      due := s.cu.due.filter fun x => !names m x.loop
      stack := s.cu.stack.filter fun x => !names m x.loop
      running := s.cu.running.bind kept }
    exec (.holdLoop tag (bytes16 m)) s = .next
      ({ s.holdLoops after with cu := ended }.settleChoice.reply 0x92 tag [0x00, 0x00, 0x00]))
  ∧ ∀ (s : State) (i : LoopId) (d : Definition), (s.loop i).definition = some d →
    let told : LoopEntry := { s.loop i with lastReported := some ((s.loop i).shown d) }
    (d.reportMode = .silent → s.safeOutput i = s)
    ∧ (d.reportMode ≠ .silent → s.safeOutput i
      = { s with loops := s.loops.set i told }.offerOutput
        { loop := i, primary := if (s.loop i).safeSub then d.safeValue else (s.loop i).primary
          secondary := if d.includeSecondary then some (s.loop i).secondary else none
          releaseTick := s.time.tick, safe := true, stale := false, sat := false })

/-- CLEAR_LOOP, whatever the states of the named loops: each named loop takes its reset values, an EMPTY one with no
change, and ALERT_N follows; nothing is reported, and an unnamed loop is unchanged; the named loops' instances leave the
due queue and the stack, and a running one is abandoned in its stage or dropped at its boundary; a pending choice may
then be made (R15, R19, R126, R122, R10, R111 to R113, R105). -/
def Obligations.ClearLoopEmptiesTheNamedLoops : Prop :=
  ∀ (s : State) (tag : Byte) (m : LoopMask), s.Accepting → LoopInv s → m ≠ 0 →
    let after (i : LoopId) : LoopEntry :=
      if names m i = true ∧ (s.loop i).state ≠ .empty then resetLoop else s.loop i
    let kept (x : Instance) : Option Instance :=
      if names m x.loop = false then some x
      else if s.cu.state = .stage then some { x with abandoned := true }
      else none
    let ended : CompUnit := { s.cu with
      due := s.cu.due.filter fun x => !names m x.loop
      stack := s.cu.stack.filter fun x => !names m x.loop
      running := s.cu.running.bind kept }
    let loops : Vector LoopEntry 16 := Vector.ofFn after
    exec (.clearLoop tag (bytes16 m)) s = .next
      ({ s with loops := loops, cu := ended, alertN := alertLevel loops }.settleChoice.reply
        0x94 tag [0x00, 0x00, 0x00])

/-- PRESET_LOOP of the right length is refused with BAD_FIELD for a loop above 15, a list of more than four presets
(log entry 20), a stage index of 0 or a stage named twice, whatever the loop; passing these, with BAD_LOOP for an EMPTY
loop, and for a defined one with BAD_FIELD where a stage index is above the stage count, a named stage's op has no
memory words, a word lies outside the range of R5, or the primary outside out_min to out_max. With a legal list of
presets: in ACTIVE and FAULTED it is refused with STATE; with a primary
outside out_min to out_max, with BAD_FIELD; otherwise it writes the primary output, sets output-valid, clears safe
substitution, and writes and seeds each named stage, word 2 for PID alone (R20, R5). -/
def Obligations.PresetLoopWritesTheNamedStages : Prop :=
  (∀ (s : State) (tag : Byte) (p : List Byte), s.Accepting →
    let b (j : Nat) : Nat := (byteAt p j).toNat
    let w (j : Nat) : Int := (word32At p j).toInt
    let index (k : Nat) : Nat := b (4 + 13 * k)
    let listed : Prop := b 0 ≤ 15 ∧ b 3 ≤ 4 ∧ (∀ k, k < b 3 → index k ≠ 0)
      ∧ ∀ j k, j < k → k < b 3 → index j ≠ index k
    let wrong (st : StageDesc) (k : Nat) : Prop :=
      match st.op with
      | .lpf => False
      | .pid => w (5 + 13 * k) < -134213632 ∨ 134213632 < w (5 + 13 * k)
          ∨ w (9 + 13 * k) < -65535 ∨ 65535 < w (9 + 13 * k)
      | .limit => w (5 + 13 * k) < -32768 ∨ 32767 < w (5 + 13 * k)
      | _ => True
    4 ≤ p.length → p.length = 4 + 13 * b 3 →
    (¬listed → exec (.presetLoop tag p) s = .next (s.reply 0x96 tag [0x03]))
    ∧ ∀ i : LoopId, (i : Nat) = b 0 → listed →
      ((s.loop i).definition = none → exec (.presetLoop tag p) s = .next (s.reply 0x96 tag [0x04]))
      ∧ ∀ d, (s.loop i).definition = some d →
        (∃ k, k < b 3 ∧ d.stages.length < index k)
          ∨ (∃ k st, k < b 3 ∧ d.stages[index k - 1]? = some st ∧ wrong st k)
          ∨ (word16At p 1).toInt < d.outMin.toInt ∨ d.outMax.toInt < (word16At p 1).toInt →
        exec (.presetLoop tag p) s = .next (s.reply 0x96 tag [0x03]))
  ∧ ∀ (s : State) (tag : Byte) (i : LoopId) (d : Definition) (v : Count) (qs : List PresetEntry), s.Accepting →
    (s.loop i).definition = some d → qs.length ≤ 4 → (qs.map fun q => q.index).Nodup →
    (∀ q ∈ qs, 1 ≤ q.index ∧ q.index ≤ 4
      ∧ ∃ st, d.stages[q.index - 1]? = some st ∧ PresetInRange st.op q) →
    let inRange : Prop := d.outMin.toInt ≤ v.toInt ∧ v.toInt ≤ d.outMax.toInt
    let written (k : Fin 4) (q : PresetEntry) : StageMem :=
      { (s.loop i).mem[k] with
        word1 := q.word1
        word2 := if (d.stages[(k : Nat)]?.map fun st => st.op) = some .pid then q.word2 else (s.loop i).mem[k].word2
        seeded := true }
    let mem : Vector StageMem 4 := Vector.ofFn fun k : Fin 4 =>
      ((qs.find? fun q => q.index = (k : Nat) + 1).map (written k)).getD (s.loop i).mem[k]
    let preset : LoopEntry := { s.loop i with primary := v, outputValid := true, safeSub := false, mem := mem }
    (¬inRange → exec (.presetLoop tag (presetLoopBytes i v qs)) s = .next (s.reply 0x96 tag [0x03]))
    ∧ (inRange → ((s.loop i).state = .active ∨ (s.loop i).state = .faulted) →
        exec (.presetLoop tag (presetLoopBytes i v qs)) s = .next (s.reply 0x96 tag [0x05]))
    ∧ (inRange → (s.loop i).state ≠ .active → (s.loop i).state ≠ .faulted →
        exec (.presetLoop tag (presetLoopBytes i v qs)) s = .next
          ({ s with loops := s.loops.set i preset }.reply 0x96 tag [0x00]))

/-! ## Coefficient requests -/

/-- LOAD_COEF writes the four words into the named stage of the pending bank alone; it is refused with BAD_FIELD for
a loop above 15, a stage index of 0 or above 4, words the op refuses or a stage beyond the program, with BAD_LOOP for
an EMPTY loop, and with PENDING while a commit is pending (R54, R55). A COMMIT_COEF frame with an action byte that is
neither APPLY nor DISCARD is refused with BAD_FIELD and a failing-loop mask of 0000h (R56; it has no row of its own, log
entry 19, so its good frame brings it). COMMIT_COEF, where no named loop is EMPTY: APPLY sets the commit-pending flag of an ACTIVE
loop and copies the pending bank of any other at once; DISCARD copies the active bank back and clears the flag;
unnamed loops and everything else are kept (R56, R57, R59). -/
def Obligations.CoefficientsAreLoadedAndCommitted : Prop :=
  (∀ (s : State) (tag : Byte) (i : LoopId) (k : Fin 4) (c : Coefs), s.Accepting →
      let p := [natByte i, natByte ((k : Nat) + 1)] ++ bytes16 c.c0 ++ bytes16 c.c1 ++ bytes16 c.c2 ++ bytes16 c.c3
      let loaded : LoopEntry := { s.loop i with pendingBank := (s.loop i).pendingBank.set k c }
      ((s.loop i).definition = none → exec (.loadCoef tag p) s = .next (s.reply 0x98 tag [0x04]))
      ∧ (∀ d, (s.loop i).definition = some d → d.stages[(k : Nat)]? = none →
          exec (.loadCoef tag p) s = .next (s.reply 0x98 tag [0x03]))
      ∧ ∀ d st, (s.loop i).definition = some d → d.stages[(k : Nat)]? = some st →
          (¬LegalCoefs st.op c → exec (.loadCoef tag p) s = .next (s.reply 0x98 tag [0x03]))
          ∧ (LegalCoefs st.op c → (s.loop i).commitPending = true →
              exec (.loadCoef tag p) s = .next (s.reply 0x98 tag [0x07]))
          ∧ (LegalCoefs st.op c → (s.loop i).commitPending = false →
              exec (.loadCoef tag p) s = .next
                ({ s with loops := s.loops.set i loaded }.reply 0x98 tag [0x00])))
  ∧ (∀ (s : State) (tag : Byte) (p : List Byte), s.Accepting → p.length = 10 →
      (15 < (byteAt p 0).toNat ∨ byteAt p 1 = 0 ∨ 4 < (byteAt p 1).toNat) →
      exec (.loadCoef tag p) s = .next (s.reply 0x98 tag [0x03]))
  ∧ (∀ (s : State) (tag action : Byte) (m : LoopMask), s.Accepting → s.Receiving → 1 < action.toNat →
      exec (.goodFrame 0x19 tag (bytes16 m ++ [action])) s
        = .next (s.goodArrival.reply 0x99 tag [0x03, 0x00, 0x00]).transmit)
  ∧ (∀ (s : State) (tag : Byte) (m : LoopMask), s.Accepting → m ≠ 0 →
      (∀ i, names m i = true → (s.loop i).state ≠ .empty) →
      let apply (l : LoopEntry) : LoopEntry :=
        if l.state = .active then { l with commitPending := true }
        else { l with activeBank := l.pendingBank, commitPending := false }
      let discard (l : LoopEntry) : LoopEntry := { l with pendingBank := l.activeBank, commitPending := false }
      exec (.commitCoefApply tag (bytes16 m)) s = .next
        ({ s with loops := Vector.ofFn fun i : LoopId => if names m i then apply (s.loop i) else s.loop i }.reply
          0x99 tag [0x00, 0x00, 0x00])
      ∧ exec (.commitCoefDiscard tag (bytes16 m)) s = .next
        ({ s with loops := Vector.ofFn fun i : LoopId => if names m i then discard (s.loop i) else s.loop i }.reply
          0x99 tag [0x00, 0x00, 0x00]))

/-! ## Alarm requests -/

/-- CLEAR_ALARMS takes the named flags out of the latched and owed sets of the named loops, and ALERT_N follows;
everything else, the report store among it, is kept (R124, R122). MASK_ALARMS, where no named loop is EMPTY, for each
named loop in ascending loop number: the loop takes the new mask and keeps its latched set; flags the new mask disables
leave the owed set; where it enables latched flags, one ALARM offer carries them with the remaining owed set, which
empties where the offer is merged or admitted and becomes the offer's set where there is no room; ALERT_N follows, and
nothing else changes (R125, R120 to R122, R136). A flag mask with any of bits 5 to 7 set, and an empty one of
CLEAR_ALARMS, is refused with BAD_FIELD and a failing-loop mask of 0000h (R124, R125, R174). Where a report stands on
offer to an idle transmitter already, that the offers come before its taking is the model's choice (log entry 25). -/
def Obligations.ClearAndMaskAlarmsAreTaken : Prop :=
  (∀ (s : State) (tag : Byte) (m : LoopMask) (f : FlagSet), s.Accepting → m ≠ 0 → f ≠ 0 →
      let cleared (l : LoopEntry) : LoopEntry :=
        { l with alarms := { l.alarms with
            latched := l.alarms.latched &&& ~~~f, owed := l.alarms.owed &&& ~~~f } }
      let loops : Vector LoopEntry 16 :=
        Vector.ofFn fun i : LoopId => if names m i then cleared (s.loop i) else s.loop i
      exec (.clearAlarms tag (bytes16 m ++ [f.setWidth 8])) s = .next
        ({ s with loops := loops, alertN := alertLevel loops }.reply 0xA9 tag [0x00, 0x00, 0x00]))
  ∧ (∀ (s : State) (tag : Byte) (m : LoopMask) (f : FlagSet), s.Accepting → m ≠ 0 →
      (∀ i, names m i = true → (s.loop i).state ≠ .empty) →
      let kept (i : LoopId) : FlagSet := (s.loop i).alarms.owed &&& ~~~((s.loop i).alarms.mask &&& ~~~f)
      let enabled (i : LoopId) : FlagSet := f &&& ~~~(s.loop i).alarms.mask &&& (s.loop i).alarms.latched
      let owing (i : LoopId) (owed : FlagSet) : LoopEntry :=
        { s.loop i with alarms := { latched := (s.loop i).alarms.latched, mask := f, owed := owed } }
      let offer (i : LoopId) : AlarmReport := ⟨i, (s.loop i).alarms.latched, enabled i ||| kept i⟩
      let room (i : LoopId) (u : ReportUnit) : Prop :=
        u.store.length < 22 ∨ ∃ e ∈ u.store, e.queuedAlarmOf i = true
      ∃ u : Nat → ReportUnit, u 0 = s.rep
        ∧ (∀ i : LoopId, names m i = false ∨ enabled i = 0 → u ((i : Nat) + 1) = u i)
        ∧ (∀ i : LoopId, names m i = true → enabled i ≠ 0 → u ((i : Nat) + 1) = ((u i).offerAlarm (offer i)).1)
        ∧ ∃ t : State, exec (.maskAlarms tag (bytes16 m ++ [f.setWidth 8])) s
            = .next (t.reply 0xAA tag [0x00, 0x00, 0x00])
          ∧ t = { s with loops := t.loops, rep := u 16, alertN := alertLevel t.loops }
          ∧ (∀ i, names m i = false → t.loop i = s.loop i)
          ∧ (∀ i, names m i = true → enabled i = 0 → t.loop i = owing i (kept i))
          ∧ (∀ i, names m i = true → enabled i ≠ 0 → room i (u i) → t.loop i = owing i 0)
          ∧ (∀ i, names m i = true → enabled i ≠ 0 → ¬room i (u i) → t.loop i = owing i (enabled i ||| kept i)))
  ∧ ∀ (s : State) (tag f : Byte) (m : LoopMask), s.Accepting →
      (31 < f.toNat ∨ f = 0 →
        exec (.clearAlarms tag (bytes16 m ++ [f])) s = .next (s.reply 0xA9 tag [0x03, 0x00, 0x00]))
      ∧ (31 < f.toNat →
        exec (.maskAlarms tag (bytes16 m ++ [f])) s = .next (s.reply 0xAA tag [0x03, 0x00, 0x00]))

/-! ## Refusals and the way a request goes -/

/-- A mask request with a mask of 0000h, or with loops it cannot be carried out for, changes nothing: the result
is the earliest check in the order BAD_LOOP, MODE, STATE that a named loop failed, with the mask of every named loop
that failed it (R15, R56, R125). -/
def Obligations.MaskRequestsRefuseAllOrNothing : Prop :=
  ∀ (s : State) (tag : Byte) (m : LoopMask) (f : Byte), s.Accepting →
    let refusedWith (c : Instr) (kind code : Byte) (failed : LoopEntry → Prop) : Prop :=
      ∃ x : LoopMask, (∀ i : LoopId, x.getLsbD i = true ↔ (names m i = true ∧ failed (s.loop i)))
        ∧ exec c s = .next (s.reply kind tag (code :: bytes16 x))
    let some' (failed : LoopEntry → Prop) : Prop := ∃ i, names m i = true ∧ failed (s.loop i)
    let isEmpty (l : LoopEntry) : Prop := l.state = .empty
    let armState (l : LoopEntry) : Prop := l.state = .active ∨ l.state = .held .host ∨ l.state = .held .safe
    let holdState (l : LoopEntry) : Prop := l.state = .idle ∨ l.state = .faulted
    let heldSafe (l : LoopEntry) : Prop := l.state = .held .safe
    let unholdState (l : LoopEntry) : Prop :=
      l.state = .idle ∨ l.state = .armed ∨ l.state = .active ∨ l.state = .faulted
    (m = 0 → ∀ c kind, (c, kind) ∈ [(Instr.armLoop tag [0, 0], (0x91 : Byte)), (.holdLoop tag [0, 0], 0x92),
        (.unholdLoop tag [0, 0], 0x93), (.clearLoop tag [0, 0], 0x94), (.commitCoefApply tag [0, 0], 0x99),
        (.commitCoefDiscard tag [0, 0], 0x99), (.clearAlarms tag [0, 0, f], 0xA9), (.maskAlarms tag [0, 0, f], 0xAA)] →
        exec c s = .next (s.reply kind tag [0x03, 0x00, 0x00]))
    ∧ (some' isEmpty →
        refusedWith (.armLoop tag (bytes16 m)) 0x91 0x04 isEmpty
        ∧ refusedWith (.holdLoop tag (bytes16 m)) 0x92 0x04 isEmpty
        ∧ refusedWith (.unholdLoop tag (bytes16 m)) 0x93 0x04 isEmpty
        ∧ refusedWith (.commitCoefApply tag (bytes16 m)) 0x99 0x04 isEmpty
        ∧ refusedWith (.commitCoefDiscard tag (bytes16 m)) 0x99 0x04 isEmpty
        ∧ (f.toNat < 32 → refusedWith (.maskAlarms tag (bytes16 m ++ [f])) 0xAA 0x04 isEmpty))
    ∧ (¬some' isEmpty → some' armState → refusedWith (.armLoop tag (bytes16 m)) 0x91 0x05 armState)
    ∧ (¬some' isEmpty → some' holdState → refusedWith (.holdLoop tag (bytes16 m)) 0x92 0x05 holdState)
    ∧ (¬some' isEmpty → some' heldSafe → refusedWith (.unholdLoop tag (bytes16 m)) 0x93 0x06 heldSafe)
    ∧ (¬some' isEmpty → ¬some' heldSafe → some' unholdState →
        refusedWith (.unholdLoop tag (bytes16 m)) 0x93 0x05 unholdState)

/-- A frame of a kind that is not a request is answered with BAD_KIND under its kind with the high bit set, whatever
its LEN and payload, and changes nothing; an UNKNOWN_KIND_REQUEST is such a frame (R172). A request whose LEN is not
what 10.3 gives for its kind is refused with BAD_LENGTH, a mask request with a failing-loop mask of 0000h behind it,
and changes nothing (R173, 10.3). -/
def Obligations.UnknownKindsAndWrongLengthsAreRefused : Prop :=
  (∀ (s : State) (kind tag : Byte) (p : List Byte), s.Accepting →
      kind ∉ [0x01, 0x02, 0x03, 0x04, 0x05, 0x06, 0x07, 0x08, 0x10, 0x11, 0x12, 0x13, 0x14, 0x15, 0x16,
        0x18, 0x19, 0x1A, 0x20, 0x21, 0x28, 0x29, 0x2A] →
      exec (.unknownKindRequest kind tag p) s = .next (s.reply (kind ||| 0x80) tag [0x01]))
  ∧ (∀ (s : State) (c : Instr) (fr : Frame), s.Accepting → requestFrame c = some fr →
      let b (j : Nat) : Nat := (byteAt fr.payload j).toNat
      let n := fr.payload.length
      let plain : Prop :=
        (fr.kind ∈ [0x01, 0x02, 0x04, 0x05, 0x06, 0x07, 0x08, 0x28] ∧ n ≠ 0) ∨ (fr.kind = 0x03 ∧ n ≠ 7)
          ∨ (fr.kind = 0x10 ∧ (n < 11 ∨ n ≠ 28 + 12 * b 10)) ∨ (fr.kind = 0x15 ∧ n ≠ 1)
          ∨ (fr.kind = 0x16 ∧ (n < 4 ∨ n ≠ 4 + 13 * b 3)) ∨ (fr.kind = 0x18 ∧ n ≠ 10)
          ∨ (fr.kind ∈ [0x1A, 0x21] ∧ n ≠ 2) ∨ (fr.kind = 0x20 ∧ (n < 1 ∨ n ≠ 1 + 3 * b 0))
      let mask : Prop :=
        (fr.kind ∈ [0x11, 0x12, 0x13, 0x14] ∧ n ≠ 2) ∨ (fr.kind ∈ [0x19, 0x29, 0x2A] ∧ n ≠ 3)
      (plain → exec c s = .next (s.reply (fr.kind ||| 0x80) fr.tag [0x02]))
      ∧ (mask → exec c s = .next (s.reply (fr.kind ||| 0x80) fr.tag [0x02, 0x00, 0x00])))

/-- A request the dispatcher cannot take yet waits at the back of the inbound slots; with all four filled it is an
overrun, which raises the overrun counter (R159, R171). That the row leaves no other trace is the model's reading: a
request row is the dispatcher's part, and the supervision restart of R159 belongs to the frame's arrival, which
GOOD_FRAME brings (log entry 3, DEDUCED; `GoodFramesReachTheSlots` has the overrun of a whole frame). -/
def Obligations.RequestsWaitOrOverrun : Prop :=
  ∀ (s : State) (c : Instr) (fr : Frame), requestFrame c = some fr → s.power = .running →
    (4 ≤ s.link.responses.length ∨ s.ctl.resetPending = true) →
    (s.link.slots.length < 4 → exec c s = .next { s with link := { s.link with slots := s.link.slots ++ [fr] } })
    ∧ (4 ≤ s.link.slots.length → exec c s = .next
        { s with link := { s.link with
          counters := { s.link.counters with overruns := satInc s.link.counters.overruns } } })

/-- A response goes to the back of the queue; an idle transmitter with no report on offer begins its frame at once;
where a report stands on offer as well, the response begins, or the report begins and the response waits
(R160, R161; log entry 2). -/
def Obligations.ResponsesReachTheTransmitter : Prop :=
  ∀ (s : State) (kind tag : Byte) (payload : List Byte) (ofReset : Bool),
    let r : Response := ⟨kind, tag, payload, ofReset⟩
    let begun (t : State) : State :=
      { t with link := { t.link with tx := .sending (frameBytes kind tag payload) ofReset } }
    (s.link.tx ≠ .idle → s.reply kind tag payload ofReset
      = { s with link := { s.link with responses := s.link.responses ++ [r] } })
    ∧ (s.link.tx = .idle → s.link.responses = [] →
        (s.link.startUpHold = true ∨ s.link.state = .mute ∨ s.rep.take = none) →
        s.reply kind tag payload ofReset = begun s)
    ∧ (∀ e u, s.link.tx = .idle → s.link.responses = [] → s.link.startUpHold = false → s.link.state ≠ .mute →
        s.rep.take = some (e, u) →
        s.reply kind tag payload ofReset = begun { s with choices := s.choices + 1 }
        ∨ s.reply kind tag payload ofReset = { s with
            rep := u, choices := s.choices + 1
            link := { s.link with responses := [r], tx := .sending e.frame false } })

/-! ## The line -/

/-- The frame of an entry carries its RSN in TAG and the payload of its kind (R175, 10.2, 10.3). The transmitter is
offered the first RESEND entry while the window is above 0, failing that the first QUEUED entry while fewer entries than
the window hold an RSN, and otherwise nothing; the taking starts a stopped retry timer, and a first transmission takes
the next RSN (R141, R142, R143). -/
def Obligations.FirstEligibleReportIsTaken : Prop :=
  (∀ (e : ReportEntry) (rsn : Byte), e.holds rsn → e.frame =
    match e.report with
    | .output r =>
      let flag (b : Bool) (n : Nat) : Nat := if b then n else 0
      frameBytes 0xC0 rsn
        ([natByte r.loop,
          natByte (flag r.safe 1 + flag r.stale 2 + flag r.sat 4 + flag r.secondary.isSome 8)]
          ++ bytes16 r.primary ++ bytes32 r.releaseTick
          ++ match r.secondary with
            | some v => bytes16 v
            | none => [])
    | .alarm r => frameBytes 0xC1 rsn [natByte r.loop, r.latched.setWidth 8, r.newly.setWidth 8]
    | .engine v => frameBytes 0xC2 rsn (match v with
      | .safeEntered .reset => [0x01, 0x00, 0x00]
      | .safeEntered .host => [0x01, 0x00, 0x01]
      | .safeEntered .supervision => [0x01, 0x00, 0x02]
      | .safeEntered .linkMute => [0x01, 0x00, 0x03]
      | .runEntered => [0x02, 0x00, 0x00]
      | .linkWarn => [0x03, 0x00, 0x00]
      | .linkOk => [0x04, 0x00, 0x00]
      | .muteLeft => [0x05, 0x00, 0x00]
      | .linkReset => [0x06, 0x00, 0x00]
      | .reportsDropped n => 0x07 :: bytes16 n)
    | .boot cause flag rev => frameBytes 0xC3 rsn
      [match cause with | .powerOn => 0x00 | .pin => 0x01 | .command => 0x02, if flag then 0x01 else 0x00, rev])
  ∧ ∀ (u : ReportUnit) (pre post : List ReportEntry) (e : ReportEntry),
    let held := rsnHolders u.store
    let timer : Option Nat := if u.retryTimer = none then some u.retryTimeout else u.retryTimer
    (∀ r, u.store = pre ++ e :: post → e.state = .resend r → (∀ x ∈ pre, ∀ q, x.state ≠ .resend q) →
      0 < u.window →
      u.take = some ({ e with state := .sent r },
        { u with store := pre ++ { e with state := .sent r } :: post, retryTimer := timer }))
    ∧ (u.store = pre ++ e :: post → e.state = .queued → (∀ x ∈ pre, x.state ≠ .queued) →
      (∀ x ∈ u.store, ∀ q, x.state ≠ .resend q) → held < u.window →
      u.take = some ({ e with state := .sent u.nextRsn, retryCount := 0 },
        { u with
          store := pre ++ { e with state := .sent u.nextRsn, retryCount := 0 } :: post
          nextRsn := u.nextRsn + 1, retryTimer := timer }))
    ∧ ((u.window = 0 ∨ ∀ x ∈ u.store, ∀ q, x.state ≠ .resend q) →
      (u.window ≤ held ∨ ∀ x ∈ u.store, x.state ≠ .queued) → u.take = none)

/-- A good frame of kind 40h is a REPORT_ACK, in every state (R158, R146). One of any other kind, in every link state:
supervision restarts, the start-up hold ends, the LEC falls by 1 and the link is judged, and then the request is handled
as its row says; with all four slots filled and the dispatcher unable to take one it is an overrun, which restarts
supervision and leaves the LEC (R158, R159, R163, R164, R194). That the request is carried out before an idle
transmitter takes a report which that arrival has made eligible is the model's choice (log entry 25). -/
def Obligations.GoodFramesReachTheSlots : Prop :=
  (∀ (s : State) (tag : Byte) (p : List Byte), exec (.goodFrame 0x40 tag p) s = exec (.reportAck tag p) s)
  ∧ ∀ (s : State) (c : Instr) (fr : Frame), s.Receiving → requestFrame c = some fr → fr.kind ≠ 0x40 →
    (s.link.slots.length < 4 → ∃ t : State, exec c s.goodArrival = .next t
      ∧ exec (.goodFrame fr.kind fr.tag fr.payload) s = .next t.transmit)
    ∧ (4 ≤ s.link.slots.length → (4 ≤ s.link.responses.length ∨ s.ctl.resetPending = true) →
        let a := s.frameArrived
        exec (.goodFrame fr.kind fr.tag fr.payload) s = .next
          { a with link := { a.link with
            counters := { a.link.counters with overruns := satInc a.link.counters.overruns } } }.transmit)

/-- At a good frame that is no overrun the LEC falls by 1, not below 0, and the link is judged: WARN becomes OK at 63
with LINK_OK, MUTE becomes OK at 63 with MUTE_LEFT and the retry timer restarted while entries hold an RSN, and
otherwise the link state stays (R158, R163, R164, R148). So for a REPORT_ACK whose LEN is not 2 or whose window is above
16, which is then ignored but for a protocol error; for a REPORT_ACK that acknowledges no RSN held, which then sets the
window (R146), whether it comes as REPORT_ACK or as GOOD_FRAME of kind 40h; and for every other kind, which is then
handled as its request row says. That what the frame brings acts before an idle transmitter takes a report which the
arrival has made eligible is the model's choice (log entry 25). -/
def Obligations.LecFallsByOneAtAGoodFrame : Prop :=
  ∀ s : State, s.Receiving →
    let a := s.frameArrived.lecLowered
    let okNow : State := { a with link := { a.link with state := .ok } }
    let muteLeft : State :=
      let t := okNow.offerEngine .muteLeft
      { t with rep := { t.rep with
        retryTimer := if 0 < rsnHolders t.rep.store then some t.rep.retryTimeout
          else t.rep.retryTimer } }
    let count (t : State) : State :=
      { t with link := { t.link with
        counters := { t.link.counters with protocolErrors := satInc t.link.counters.protocolErrors } } }
    let lec := s.link.lec.toNat
    let arrives (t : State) : Prop :=
      (∀ (c : Instr) (tag : Byte) (p : List Byte), c = .reportAck tag p ∨ c = .goodFrame 0x40 tag p →
        p.length ≠ 2 ∨ 16 < (byteAt p 1).toNat → exec c s = .next (count t).transmit)
      ∧ (∀ (c : Instr) (tag r w : Byte), c = .reportAck tag [r, w] ∨ c = .goodFrame 0x40 tag [r, w] →
        w.toNat ≤ 16 → (∀ e ∈ s.rep.store, ¬e.holds r) →
        exec c s = .next { t with rep := { t.rep with window := w.toNat } }.transmit)
      ∧ ∀ (c : Instr) (fr : Frame), requestFrame c = some fr → fr.kind ≠ 0x40 → s.link.slots.length < 4 →
        ∃ u : State, exec c t = .next u ∧ exec (.goodFrame fr.kind fr.tag fr.payload) s = .next u.transmit
    ((s.link.state = .ok ∧ lec ≤ 64) ∨ (s.link.state = .warn ∧ 65 ≤ lec ∧ lec ≤ 128)
        ∨ (s.link.state = .mute ∧ 65 ≤ lec) → arrives a)
    ∧ (s.link.state = .warn → lec ≤ 64 → arrives (okNow.offerEngine .linkOk))
    ∧ (s.link.state = .mute → lec ≤ 64 → arrives muteLeft)

/-- A good REPORT_ACK with a window of 16 or less, in every link state, once its arrival has lowered the LEC: the
window becomes w; where an entry holds RSN a, it and every entry before it are removed, the owed reports are admitted,
and the retry timer restarts while entries holding an RSN remain and the link is not MUTE, or stops; where none does,
nothing is removed and the timer stands (R146, R139, R143, R148). That the acknowledgement acts before an idle
transmitter takes a report which its own arrival has made eligible, by ending MUTE or the start-up hold, is the model's
choice (log entry 25). -/
def Obligations.AcknowledgementRemovesReports : Prop :=
  ∀ (s : State) (tag a w : Byte), s.Receiving → w.toNat ≤ 16 →
    let b := s.goodArrival
    let rearmed (t : State) : State :=
      { t with rep := { t.rep with
        retryTimer := if 0 < rsnHolders t.rep.store ∧ t.link.state ≠ .mute then some t.rep.retryTimeout
          else none } }
    ((∀ x ∈ s.rep.store, ¬x.holds a) →
      exec (.reportAck tag [a, w]) s = .next { b with rep := { b.rep with window := w.toNat } }.transmit)
    ∧ (∀ pre e rest, b.rep.store = pre ++ e :: rest → e.holds a → (∀ x ∈ pre, ¬x.holds a) →
        exec (.reportAck tag [a, w]) s = .next
          (rearmed { b with rep := { b.rep with store := rest, window := w.toNat } }.admitOwed).transmit
        ∧ (b.rep.engineOwed = [] → (∀ i, (s.loop i).alarms.owed = 0) →
          { b with rep := { b.rep with store := rest, window := w.toNat } }.admitOwed
            = { b with rep := { b.rep with store := rest, window := w.toNat } }))

/-- A CRC error and a length error raise the LEC by 8, a gap error (an expiry of the running gap timer, or a
framing error inside a frame) by 4, up to 255; each counts in its own counter and takes the receiver to HUNT. Then
the link is judged: OK becomes WARN at 64 with LINK_WARN, and OK or WARN becomes MUTE at 128, which stops the retry
timer and makes a claim to enter SAFE with cause LINK_MUTE (R155 to R157, R163 to R165). -/
def Obligations.LineErrorsRaiseTheLec : Prop :=
  ∀ (s : State) (c : Instr) (n : Nat) (k : LinkCounters), s.Receiving →
    let k0 := s.link.counters
    ((c = .crcError ∧ n = 8 ∧ k = { k0 with crcErrors := satInc k0.crcErrors })
      ∨ (c = .lengthError ∧ n = 8 ∧ k = { k0 with lengthErrors := satInc k0.lengthErrors })
      ∨ (c = .gapTimerExpiry ∧ n = 4 ∧ s.link.gapTimer = .running
          ∧ k = { k0 with gapErrors := satInc k0.gapErrors })
      ∨ ((∃ d, d ≠ 0 ∧ c = .framingError d) ∧ n = 4 ∧ s.link.rx ≠ .hunt
          ∧ k = { k0 with gapErrors := satInc k0.gapErrors })) →
    let lec := min 255 (s.link.lec.toNat + n)
    let raised (st : LinkState) : State :=
      { s with link := { s.link with
        rx := .hunt, gapTimer := .stopped, counters := k, lec := BitVec.ofNat 8 lec, state := st } }
    ((s.link.state = .ok ∧ lec ≤ 63) ∨ (s.link.state = .warn ∧ 64 ≤ lec ∧ lec ≤ 127)
        ∨ (s.link.state = .mute ∧ 64 ≤ lec) → exec c s = .next (raised s.link.state).transmit)
    ∧ (s.link.state = .ok → 64 ≤ lec → lec ≤ 127 →
        exec c s = .next ((raised .warn).offerEngine .linkWarn).transmit)
    ∧ (s.link.state ≠ .mute → 128 ≤ lec →
        exec c s = .next
          ({ raised .mute with rep := { s.rep with retryTimer := none } }.claimSafe .linkMute).transmit)

/-- A framing error in HUNT leaves no trace; a byte of zeros with a low stop bit is held undecided with the gap
timer standing still; while RXD stays low no byte is taken; when it returns high an undecided byte inside a frame
is a framing error, and otherwise the receiver waits for the next start bit (R157, R167). That the line's other commands
leave the state while a byte is undecided is read from R157 (log entry 12, DEDUCED); that the expiry of a gap timer at
rest, and an end of the start-up hold that cannot come, leave it is the model's choice (log entry 9). -/
def Obligations.LowLineTakesNoBytes : Prop :=
  (∀ (s : State) (d : Byte), s.Receiving → d ≠ 0 → s.link.rx = .hunt → exec (.framingError d) s = .next s)
  ∧ (∀ s : State, s.Receiving → exec (.framingError 0) s = .next
      { s with link := { s.link with
        rxd := .undecided
        gapTimer := if s.link.gapTimer = .running then .held else s.link.gapTimer } })
  ∧ (∀ (s : State) (c : Instr), s.power = .running → s.link.rxd ≠ .taking →
      ((∃ k t p, c = .goodFrame k t p) ∨ (∃ t p, c = .reportAck t p) ∨ c = .crcError ∨ c = .lengthError
        ∨ (∃ d, c = .framingError d) ∨ (∃ d, c = .byteReceived d) ∨ c = .startUpHoldEnd) → exec c s = .next s)
  ∧ (∀ s : State, s.power = .running →
      let high : State := { s with link := { s.link with rxd := .taking } }
      (s.link.rxd ≠ .undecided ∨ s.link.rx = .hunt → exec .rxdReturnsHigh s = .next high)
      ∧ (s.link.rxd = .undecided → s.link.rx ≠ .hunt → ∃ t : State,
          exec .rxdReturnsHigh s = .next t ∧ exec (.framingError 0xFF) high = .next t))
  ∧ (∀ s : State, s.power = .running → s.link.gapTimer ≠ .running → exec .gapTimerExpiry s = .next s)

/-- A break is recognised once for one low period. It empties the slots and the response queue, takes the receiver
to HUNT and the link to OK with an LEC of 0, with LINK_RESET where the link was not OK; every SENT entry becomes
RESEND, the default window is loaded and the retry timer stops; a frame on the wire finishes. Where the queue held
the response to a RESET, the full reset with cause COMMAND follows at once (R166 to R168, R149, R192); that RXD is then
low at the start-up, and the receiver waits out that low period, is read from R167 and R192 (log entry 11, DEDUCED). A
second BREAK in one low period leaves the state (R167; log entry 9). -/
def Obligations.BreakStartsTheLinkAfresh : Prop :=
  ∀ (s : State) (straps : Straps), s.power = .running →
    let emptied : State :=
      { s with link := { s.link with
        rx := .hunt, gapTimer := .stopped, rxd := .breakLow, slots := [], responses := [], lec := 0, state := .ok
        counters := { s.link.counters with breaks := satInc s.link.counters.breaks } } }
    let told : State := if s.link.state = .ok then emptied else emptied.offerEngine .linkReset
    (s.link.rxd = .breakLow → exec (.lineBreak straps) s = .next s)
    ∧ (s.link.rxd ≠ .breakLow → (∀ r ∈ s.link.responses, r.ofReset = false) →
        exec (.lineBreak straps) s = .next
          { told with rep := { told.rep with
            store := told.rep.store.map resendEntry
            window := told.rep.defaultWindow, retryTimer := none } }.transmit)
    ∧ (s.link.rxd ≠ .breakLow → (∃ r ∈ s.link.responses, r.ofReset = true) →
        exec (.lineBreak straps) s = .next (commandResetState s straps true))

/-- The end of the start-up hold: RXD high for 10 character times lets the transmitter ask for a report; after
start-up with the line idle the BOOT report is then sent as RSN 0, and the retry timer starts (R194, R142, R143).
Without a hold there is no such event: that the command then leaves the state is the model's choice (log entry 9). -/
def Obligations.StartUpHoldEndsOnAnIdleLine : Prop :=
  (∀ s : State, s.Receiving → s.link.startUpHold = true →
    exec .startUpHoldEnd s = .next { s with link := { s.link with startUpHold := false } }.transmit)
  ∧ (∀ s : State, s.Receiving → s.link.startUpHold = false → exec .startUpHoldEnd s = .next s)
  ∧ (∀ (s : State) (straps : Straps), ∃ t : State,
      exec .startUpHoldEnd (commandResetState s straps false) = .next t
      ∧ t.link.tx = .sending (frameBytes 0xC3 0x00 [0x02, boolByte s.ctl.powerOnFlag, 0x01]) false
      ∧ t.rep.store = [⟨.boot .command s.ctl.powerOnFlag 0x01, .sent 0x00, 0⟩]
      ∧ t.rep.nextRsn = 1 ∧ t.rep.retryTimer = some 50)

/-- The end of a frame: after the response to a RESET the full reset with cause COMMAND and start-up follow in the
event; otherwise the oldest response begins, and failing that a report on offer, and failing that the transmitter
stays idle; where the taking of a response makes room, the dispatcher takes the oldest waiting request in the same
event, and the requests behind it wait on; behind a pending RESET all of them wait (R161, R171, R191). That FRAME_END
with nothing on the wire leaves the state is the model's choice (log entry 9). -/
def Obligations.FrameEndChoosesTheNextFrame : Prop :=
  ∀ (s : State) (straps : Straps) (low : Bool), s.power = .running →
    let sends (t : State) (bytes : List Byte) (b : Bool) : State :=
      { t with link := { t.link with tx := .sending bytes b } }
    (s.link.tx = .idle → exec (.frameEnd straps low) s = .next s)
    ∧ (∀ bytes, s.link.tx = .sending bytes true →
        exec (.frameEnd straps low) s = .next (commandResetState s straps low))
    ∧ (∀ bytes r rest, s.link.tx = .sending bytes false → s.link.responses = r :: rest → s.link.slots = [] →
        exec (.frameEnd straps low) s = .next
          (sends { s with link := { s.link with responses := rest } } (frameBytes r.kind r.tag r.payload) r.ofReset))
    ∧ (∀ bytes r rest c fr, s.link.tx = .sending bytes false → s.link.responses = r :: rest → rest.length < 4 →
        s.link.slots = [fr] → requestFrame c = some fr → s.ctl.resetPending = false →
        ∃ t : State,
          exec c (sends { s with link := { s.link with responses := rest, slots := [] } }
            (frameBytes r.kind r.tag r.payload) r.ofReset) = .next t
          ∧ exec (.frameEnd straps low) s = .next t)
    ∧ (∀ bytes r rest c fr waiting, s.link.tx = .sending bytes false → s.link.responses = r :: rest →
        rest.length = 3 → s.link.slots = fr :: waiting → requestFrame c = some fr → s.ctl.resetPending = false →
        ∃ t : State,
          exec c (sends { s with link := { s.link with responses := rest, slots := [] } }
            (frameBytes r.kind r.tag r.payload) r.ofReset) = .next t
          ∧ exec (.frameEnd straps low) s = .next { t with link := { t.link with slots := waiting } })
    ∧ (∀ bytes r rest, s.link.tx = .sending bytes false → s.link.responses = r :: rest →
        s.ctl.resetPending = true →
        exec (.frameEnd straps low) s = .next
          (sends { s with link := { s.link with responses := rest } } (frameBytes r.kind r.tag r.payload) r.ofReset))
    ∧ (∀ bytes e u, s.link.tx = .sending bytes false → s.link.responses = [] → s.link.slots = [] →
        s.link.startUpHold = false → s.link.state ≠ .mute → s.rep.take = some (e, u) →
        exec (.frameEnd straps low) s = .next (sends { s with rep := u } e.frame false))
    ∧ (∀ bytes, s.link.tx = .sending bytes false → s.link.responses = [] → s.link.slots = [] →
        (s.link.startUpHold = true ∨ s.link.state = .mute ∨ s.rep.take = none) →
        exec (.frameEnd straps low) s = .next { s with link := { s.link with tx := .idle } })

/-- The receiver treats each byte by its state, row by row of the table of R154; a LEN above 240 is a length error
(R155), and the second check byte makes the frame good or a CRC error (R156, R158). -/
def Obligations.ReceiverTreatsEachByte : Prop :=
  ∀ (s : State) (b : Byte), s.Receiving →
    let goes (rx : Receiver) : Prop :=
      exec (.byteReceived b) s = .next { s with link := { s.link with rx := rx, gapTimer := .running } }
    (s.link.rx = .hunt → b = 0xA5 → goes (.header []))
    ∧ (s.link.rx = .hunt → b ≠ 0xA5 → exec (.byteReceived b) s = .next s)
    ∧ (s.link.rx = .header [] → goes (.header [b]))
    ∧ (∀ kind, s.link.rx = .header [kind] → goes (.header [kind, b]))
    ∧ (∀ kind tag, s.link.rx = .header [kind, tag] →
        (b = 0 → goes (.check kind tag [] none))
        ∧ (b ≠ 0 → b.toNat ≤ 240 → goes (.body kind tag b []))
        ∧ (240 < b.toNat → exec (.byteReceived b) s = exec .lengthError s))
    ∧ (∀ kind tag len got, s.link.rx = .body kind tag len got →
        (got.length + 1 < len.toNat → goes (.body kind tag len (got ++ [b])))
        ∧ (len.toNat ≤ got.length + 1 → goes (.check kind tag (got ++ [b]) none)))
    ∧ (∀ kind tag got, s.link.rx = .check kind tag got none → goes (.check kind tag got (some b)))
    ∧ (∀ kind tag got high, s.link.rx = .check kind tag got (some high) →
        (crc16 (kind :: tag :: natByte got.length :: got) = high ++ b →
          exec (.byteReceived b) s = exec (.goodFrame kind tag got) s)
        ∧ (crc16 (kind :: tag :: natByte got.length :: got) ≠ high ++ b →
          exec (.byteReceived b) s = exec .crcError s))

/-- A frame is SYNC, KIND, TAG, LEN, the payload and the CRC, high byte first; the CRC register is loaded with FFFFh,
takes each byte from KIND to the last payload byte into its high eight bits by exclusive-or, and is shifted left eight
times, with 1021h combined into it at each shift whose bit shifted out was 1; "123456789" gives 29B1h (R153). Decode and
encode agree for frames: the bytes of any frame the part itself could build, taken one after another by the receiver
from HUNT, have exactly the effect of that good frame (R153, R154, R156). -/
def Obligations.FramesAreReadByteByByte : Prop :=
  let shift (r : BitVec 16) : BitVec 16 := if r.getLsbD 15 then (r <<< 1) ^^^ 0x1021 else r <<< 1
  crc16 [] = 0xFFFF
  ∧ (∀ (l : List Byte) (b : Byte), crc16 (l ++ [b]) = shift^[8] (crc16 l ^^^ (b ++ (0 : Byte))))
  ∧ crc16 [0x31, 0x32, 0x33, 0x34, 0x35, 0x36, 0x37, 0x38, 0x39] = 0x29B1
  ∧ (∀ (kind tag : Byte) (p : List Byte),
      let check := crc16 ([kind, tag, natByte p.length] ++ p)
      frameBytes kind tag p
        = [0xA5, kind, tag, natByte p.length] ++ p ++ [check.extractLsb' 8 8, check.extractLsb' 0 8])
  ∧ ∀ (s : State) (kind tag : Byte) (p : List Byte), s.Receiving → s.link.rx = .hunt → p.length ≤ 240 →
    feed s (frameBytes kind tag p) = exec (.goodFrame kind tag p) s

/-! ## The engine's own events -/

/-- With no release due, a tick event raises the tick count by 1 modulo 2^32 and begins an interval of the tick
length now set, and a pending choice may then be made; a release still due is taken ahead of it (R79, R80, R85,
R105; log entry 6 for what TICK does with a release still due). -/
def Obligations.TickRaisesTheTickCount : Prop :=
  (∀ s : State, s.power = .running → (∀ i d, ¬s.FallsDue i d) →
    exec .tick s = .next
      { s with time := { s.time with
        tick := s.time.tick + 1, intervalLength := s.time.tickLength } }.settleChoice)
  ∧ ∀ (s : State) (i : LoopId) (d : Definition), s.FallsDue i d → 0 < d.period.toNat →
      (∀ j e, s.FallsDue j e → j = i) →
      ∃ t : State, exec (.release i) s = .next t ∧ exec .tick s = exec .tick t

/-- A taken release with fresh inputs: the loop is ACTIVE with one more release taken, its miss count 0, a pending
commit applied, its status DUE and its next release one period ahead; the instance carries the inputs as they stand
and goes into the due queue; a pending choice may then be made (R85, R89, R58, R28, R97, R84). -/
def Obligations.TakenReleaseCreatesAnInstance : Prop :=
  ∀ (s : State) (i : LoopId) (d : Definition), s.FallsDue i d → (s.loop i).status = .noInstance →
    ¬s.StaleRelease d →
    let l := s.loop i
    let x : Instance :=
      { loop := i, releaseTick := s.time.tick, priority := d.priority
        a := s.supplied d.inputA, b := (d.inputB.map s.supplied).getD 0
        nextStage := 1, proposals := Vector.replicate 4 none
        marks := { sat := false, stale := false, arith := false }, abandoned := false }
    let released : LoopEntry :=
      { l with
        state := .active, status := .due, missCount := 0
        stats := { l.stats with releasesTaken := satInc l.stats.releasesTaken }
        activeBank := if l.commitPending then l.pendingBank else l.activeBank, commitPending := false
        nextRelease := some (s.time.tick + d.period.setWidth 32) }
    let woken : UnitState := if s.cu.state = .idle then .choice else s.cu.state
    exec (.release i) s = .next
      ({ s with
        loops := s.loops.set i released
        cu := { s.cu with due := insertDue s.time.tick x s.cu.due, state := woken } }.settleChoice.transmit)

/-- A release of a loop with an outstanding instance is a miss: the instance stays where it is, the misses rise and
the MISS flag is handed to the alarm unit; at a non-zero miss limit the loop faults in place of that: its instance
ends, it presents its safe value, MISS and FAULT are handed on together, and the SAFE-marked OUTPUT report follows
(R86, R87, R27, R24, R84, R85, R111 to R113). A loop without a release due has none: that the command then leaves the
state is the model's choice (log entry 9). -/
def Obligations.MissedReleaseLeavesTheInstance : Prop :=
  (∀ (s : State) (i : LoopId) (d : Definition), s.FallsDue i d → (s.loop i).status ≠ .noInstance →
    let l := s.loop i
    let limit : Prop := d.missLimit ≠ 0 ∧ satInc l.missCount = d.missLimit
    let missed : LoopEntry :=
      { l with
        missCount := satInc l.missCount, stats := { l.stats with misses := satInc l.stats.misses } }
    let waiting : LoopEntry :=
      { missed with state := .active, nextRelease := some (s.time.tick + d.period.setWidth 32) }
    let faulted : LoopEntry :=
      { missed with
        state := .faulted, status := .noInstance, nextRelease := none, safeSub := true
        outputValid := false }
    let abandoned (x : Instance) : Option Instance :=
      if x.loop ≠ i then some x
      else if s.cu.state = .stage then some { x with abandoned := true }
      else none
    let ended : CompUnit :=
      match l.status with
      | InstanceStatus.noInstance => s.cu
      | .due => { s.cu with due := s.cu.due.filter fun x => x.loop != i }
      | .running => { s.cu with running := s.cu.running.bind abandoned }
      | .suspended => { s.cu with stack := s.cu.stack.filter fun x => x.loop != i }
    (¬limit → exec (.release i) s = .next
      (({ s with loops := s.loops.set i waiting }.handAlarms i 0b00010).settleChoice.transmit))
    ∧ (limit → exec (.release i) s = .next
      ((({ s with loops := s.loops.set i faulted, cu := ended }.handAlarms i 0b10010).safeOutput
        i).settleChoice.transmit)))
  ∧ ∀ (s : State) (i : LoopId), s.power = .running → (∀ d, ¬s.FallsDue i d) → exec (.release i) s = .next s

/-- A stale release follows the stale policy: USE takes the release with the STALE mark, SKIP counts a skip and
keeps the schedule, FAULT faults the loop, counts nothing, and the SAFE-marked OUTPUT report follows; each hands the
STALE flag to the alarm unit, FAULT with it the FAULT flag (R75, R76, R77, R84, R24, R27). -/
def Obligations.StaleReleaseFollowsThePolicy : Prop :=
  ∀ (s : State) (i : LoopId) (d : Definition), s.FallsDue i d → (s.loop i).status = .noInstance →
    s.StaleRelease d →
    let l := s.loop i
    let next : Option Tick := some (s.time.tick + d.period.setWidth 32)
    let x : Instance :=
      { loop := i, releaseTick := s.time.tick, priority := d.priority
        a := s.supplied d.inputA, b := (d.inputB.map s.supplied).getD 0
        nextStage := 1, proposals := Vector.replicate 4 none
        marks := { sat := false, stale := true, arith := false }, abandoned := false }
    let used : LoopEntry :=
      { l with
        state := .active, status := .due, missCount := 0, nextRelease := next
        stats := { l.stats with releasesTaken := satInc l.stats.releasesTaken }
        activeBank := if l.commitPending then l.pendingBank else l.activeBank, commitPending := false }
    let skipped : LoopEntry :=
      { l with state := .active, nextRelease := next, stats := { l.stats with skips := satInc l.stats.skips } }
    let faulted : LoopEntry :=
      { l with state := .faulted, nextRelease := none, safeSub := true, outputValid := false }
    let woken : UnitState := if s.cu.state = .idle then .choice else s.cu.state
    (d.stalePolicy = .use → exec (.release i) s = .next
      (({ s with
        loops := s.loops.set i used
        cu := { s.cu with due := insertDue s.time.tick x s.cu.due, state := woken } }.handAlarms i
          0b00100).settleChoice.transmit))
    ∧ (d.stalePolicy = .skip → exec (.release i) s = .next
      (({ s with loops := s.loops.set i skipped }.handAlarms i 0b00100).settleChoice.transmit))
    ∧ (d.stalePolicy = .fault → exec (.release i) s = .next
      ((({ s with loops := s.loops.set i faulted }.handAlarms i 0b10100).safeOutput i).settleChoice.transmit))

/-- A stage completion treats its instance by the first case of R104 that applies: an abandoned one is dropped with
nothing entered; an ARITH mark under policy FAULT faults the loop, ARITH and FAULT are handed to the alarm unit and the
SAFE-marked OUTPUT report follows; the last stage completes the instance: its results are written, the marks are handed
to the alarm unit, and then the OUTPUT report is decided by the report mode; otherwise the results are entered and the
unit stands at a stage boundary (R104, R30, R47, R48, R49, R24, R27, R102). Without a stage in progress there is no such
event: that the command then leaves the state is the model's choice (log entry 9). -/
def Obligations.StageCompletionEntersOrWrites : Prop :=
  (∀ s : State, s.power = .running → (s.cu.state ≠ .stage ∨ s.cu.running = none) →
    exec .stageCompletion s = .next s)
  ∧ ∀ (s : State) (x : Instance), s.power = .running → s.cu.state = .stage → s.cu.running = some x →
    let dropped : CompUnit := { s.cu with running := none, state := .choice }
    let l := s.loop x.loop
    (x.abandoned = true → exec .stageCompletion s = .next ({ s with cu := dropped }.settleChoice.transmit))
    ∧ ∀ (d : Definition) (st : StageDesc), x.abandoned = false → l.definition = some d → 1 ≤ x.nextStage →
        d.stages[x.nextStage - 1]? = some st → l.status = .running →
        let r := runStage st (l.activeBank.toList.getD (x.nextStage - 1) ⟨0, 0, 0, 0⟩)
          (l.mem.toList.getD (x.nextStage - 1) ⟨0, 0, 0, false⟩) x.a x.b
        let entered : Instance :=
          { x with
            a := r.a, b := r.b, nextStage := x.nextStage + 1
            proposals := x.proposals.setIfInBounds (x.nextStage - 1) r.proposal
            marks := { x.marks with sat := x.marks.sat || r.sat, arith := x.marks.arith || r.arith } }
        let faults : Prop := r.arith = true ∧ d.arithPolicy = .fault
        let faulted : LoopEntry :=
          { l with
            state := .faulted, status := .noInstance, nextRelease := none, safeSub := true, outputValid := false }
        (¬faults → x.nextStage < d.stages.length →
          exec .stageCompletion s = .next
            ({ s with cu := { s.cu with running := some entered, state := .choice } }.settleChoice.transmit))
        ∧ (faults → exec .stageCompletion s = .next
            ((({ s with loops := s.loops.set x.loop faulted, cu := dropped }.handAlarms x.loop 0b11000).safeOutput
              x.loop).settleChoice.transmit))
        ∧ (¬faults → x.nextStage = d.stages.length → d.outMin.toInt ≤ d.outMax.toInt →
            let clamped : Int := max d.outMin.toInt (min d.outMax.toInt r.a.toInt)
            let marks : Marks := { entered.marks with sat := entered.marks.sat || (clamped != r.a.toInt) }
            let flags : FlagSet := (if marks.sat then 0b00001 else 0) ||| (if marks.stale then 0b00100 else 0)
              ||| (if marks.arith then 0b01000 else 0)
            let word (k : Fin 4) : StageMem :=
              if (k : Nat) < d.stages.length then
                match entered.proposals[k] with
                | none => { l.mem[k] with seeded := true }
                | some q => { l.mem[k] with
                    word1 := q.word1, word2 := q.word2.getD l.mem[k].word2, seeded := true }
              else l.mem[k]
            let written : LoopEntry :=
              { l with
                primary := BitVec.ofInt 16 clamped, secondary := r.b, outputValid := true, safeSub := false
                mem := Vector.ofFn word, status := .noInstance
                stats := { l.stats with
                  completions := satInc l.stats.completions
                  saturations := if marks.sat then satInc l.stats.saturations else l.stats.saturations } }
            exec .stageCompletion s = .next
              ((({ s with loops := s.loops.set x.loop written, cu := dropped }.handAlarms x.loop
                flags).completionOutput x.loop d entered marks).settleChoice.transmit))

/-- A choice is made once no loop holds a next-release tick equal to the tick count, and follows the tables of R106
and R107; until then it stays pending (R105, R106, R107). An insertion places the instance directly behind the last
entry that stands ahead of it by priority, age and loop number, and moves no other entry (R99, R100). -/
def Obligations.ChoiceAndDueQueueOrder : Prop :=
  (∀ s : State,
      let starts (t : State) (x : Instance) (due stack : List Instance) : State :=
        { t with
          cu := { state := .stage, due := due, running := some x, stack := stack }
          loops := t.loops.set x.loop { t.loop x.loop with status := .running } }
      (s.cu.state ≠ .choice ∨ (∃ i, (s.loop i).nextRelease = some s.time.tick) → s.settleChoice = s)
      ∧ (s.cu.state = .choice → (∀ i, (s.loop i).nextRelease ≠ some s.time.tick) →
          (s.cu.running = none →
            (s.cu.due = [] → s.cu.stack = [] →
              s.settleChoice = { s with cu := { s.cu with state := .idle } })
            ∧ (∀ b q, s.cu.due = b :: q → s.cu.stack = [] → s.settleChoice = starts s b q [])
            ∧ (∀ a r, s.cu.due = [] → s.cu.stack = a :: r → s.settleChoice = starts s a [] r)
            ∧ (∀ b q a r, s.cu.due = b :: q → s.cu.stack = a :: r →
                (b.priority < a.priority → s.settleChoice = starts s b q (a :: r))
                ∧ (a.priority ≤ b.priority → s.settleChoice = starts s a (b :: q) r)))
          ∧ (∀ x, s.cu.running = some x →
              (∀ b q, s.cu.due = b :: q → b.priority < x.priority → s.cu.stack.length < 3 →
                let l := s.loop x.loop
                let pushed : LoopEntry :=
                  { l with
                    status := .suspended, stats := { l.stats with preemptions := satInc l.stats.preemptions } }
                s.settleChoice = starts { s with loops := s.loops.set x.loop pushed } b q (x :: s.cu.stack))
              ∧ ((∀ b q, s.cu.due = b :: q → x.priority ≤ b.priority ∨ 3 ≤ s.cu.stack.length) →
                  s.settleChoice = starts s x s.cu.due s.cu.stack))))
  ∧ (∀ (now : Tick) (x : Instance) (due : List Instance), ∃ front back,
      due = front ++ back ∧ insertDue now x due = front ++ x :: back
        ∧ (∀ y ∈ back, ¬StandsAhead now y x) ∧ (∀ y, front.getLast? = some y → StandsAhead now y x))

/-- At the expiry of the retry timer every SENT entry becomes RESEND and the first entry's retry count rises; past
the retry limit that entry is dropped: the dropped count rises by 1, the LEC by 8, whereupon the link is judged (to WARN
with LINK_WARN, or to MUTE with the entry to SAFE), the owed reports are admitted, and REPORTS_DROPPED is offered, in
this order; the timer restarts while entries hold an RSN and the link is not MUTE, and stops otherwise
(R144, R145, R139, R143, R163 to R165). A stopped timer does not expire: that the command then leaves the state is the
model's choice (log entry 9). -/
def Obligations.RetryExpiryGoesBackOrDrops : Prop :=
  ∀ (s : State) (e : ReportEntry) (rest : List ReportEntry), s.power = .running →
    let rearmed (t : State) : State :=
      { t with rep := { t.rep with
        retryTimer := if 0 < rsnHolders t.rep.store ∧ t.link.state ≠ .mute then some t.rep.retryTimeout
          else none } }
    let first : ReportEntry := { resendEntry e with retryCount := e.retryCount + 1 }
    let removed : State := { s with rep := { s.rep with
      store := rest.map resendEntry, droppedCount := satInc s.rep.droppedCount } }
    let dropped : State :=
      (removed.lecBecomes (min 255 (s.link.lec.toNat + 8))).admitOwed.offerEngine (.reportsDropped 1)
    (s.rep.retryTimer = none → exec .retryTimerExpiry s = .next s)
    ∧ (s.rep.retryTimer ≠ none → s.rep.store = e :: rest → e.retryCount + 1 ≤ s.rep.retryLimit →
        exec .retryTimerExpiry s = .next
          (rearmed { s with rep := { s.rep with store := first :: rest.map resendEntry } }).transmit)
    ∧ (s.rep.retryTimer ≠ none → s.rep.store = e :: rest → s.rep.retryLimit < e.retryCount + 1 →
        exec .retryTimerExpiry s = .next (rearmed dropped).transmit)

/-! ## Alarms and admission -/

/-- The flags handed for a loop in one event are latched whatever the mask; those newly raised make one ALARM offer
carrying them with the owed set, and the owed set empties where the offer is merged or admitted and becomes the
offer's set where it is refused; ALERT_N follows the latched, enabled flags (R119 to R122, R136). -/
def Obligations.HandedFlagsLatchAndAreOffered : Prop :=
  ∀ (s : State) (i : LoopId) (handed : FlagSet),
    let r := (s.loop i).alarms
    let newly := handed &&& ~~~r.latched &&& r.mask
    let after (owed : FlagSet) : Vector LoopEntry 16 :=
      s.loops.set i { s.loop i with alarms := { r with latched := r.latched ||| handed, owed := owed } }
    let offer : AlarmReport := ⟨i, r.latched ||| handed, newly ||| r.owed⟩
    let room : Prop := s.rep.store.length < 22 ∨ ∃ e ∈ s.rep.store, e.queuedAlarmOf i = true
    (newly = 0 → s.handAlarms i handed
      = { s with loops := after r.owed, alertN := alertLevel (after r.owed) })
    ∧ (newly ≠ 0 → room → s.handAlarms i handed
      = { s with loops := after 0, alertN := alertLevel (after 0), rep := (s.rep.offerAlarm offer).1 })
    ∧ (newly ≠ 0 → ¬room → s.handAlarms i handed
      = { s with loops := after (newly ||| r.owed), alertN := alertLevel (after (newly ||| r.owed)) })

/-- An OUTPUT report replaces the QUEUED OUTPUT report of its loop in its place, or is appended to a store of fewer
than 22 entries, or is discarded with the loop's outputs-dropped statistic raised by 1, stopping at 65 535; it is
never merged into an entry that has been sent (R135). -/
def Obligations.OutputReportsReplaceAppendOrDrop : Prop :=
  ∀ (s : State) (r : OutputReport),
    let mine (e : ReportEntry) : Prop := e.state = .queued ∧ ∃ o : OutputReport, e.report = .output o ∧ o.loop = r.loop
    (∀ pre e post, s.rep.store = pre ++ e :: post → mine e → (∀ x ∈ pre, ¬mine x) →
      s.offerOutput r = { s with rep := { s.rep with store := pre ++ { e with report := .output r } :: post } })
    ∧ ((∀ e ∈ s.rep.store, ¬mine e) → s.rep.store.length < 22 →
        s.offerOutput r = { s with rep := { s.rep with store := s.rep.store ++ [⟨.output r, .queued, 0⟩] } })
    ∧ ((∀ e ∈ s.rep.store, ¬mine e) → 22 ≤ s.rep.store.length →
        let l := s.loop r.loop
        let dropped : LoopEntry :=
          { l with stats := { l.stats with outputsDropped := satInc l.stats.outputsDropped } }
        s.offerOutput r = { s with loops := s.loops.set r.loop dropped })

/-- An ALARM report joins the QUEUED ALARM report of its loop, with the union of the newly-raised sets and its own
latched set, or is appended to a store of fewer than 22 entries, or is refused. An ENGINE event is added to a
QUEUED REPORTS_DROPPED report, or appended to a store of fewer than 24 entries, or placed last in the engine-owed
set with its content brought up to date (R136, R137). -/
def Obligations.AlarmAndEngineReportsAreAdmitted : Prop :=
  (∀ a b : EngineEvent, a.sameKind b = true ↔ a = b ∨ (∃ c d, a = .safeEntered c ∧ b = .safeEntered d)
    ∨ ∃ n k, a = .reportsDropped n ∧ b = .reportsDropped k)
  ∧ (∀ (u : ReportUnit) (r : AlarmReport),
    let mine (e : ReportEntry) : Prop := e.state = .queued ∧ ∃ o : AlarmReport, e.report = .alarm o ∧ o.loop = r.loop
    (∀ pre e post old, u.store = pre ++ e :: post → e.state = .queued → e.report = .alarm old → old.loop = r.loop →
      (∀ x ∈ pre, ¬mine x) →
      let merged : ReportEntry := { e with report := .alarm ⟨r.loop, r.latched, old.newly ||| r.newly⟩ }
      u.offerAlarm r = ({ u with store := pre ++ merged :: post }, true))
    ∧ ((∀ e ∈ u.store, ¬mine e) → u.store.length < 22 →
        u.offerAlarm r = ({ u with store := u.store ++ [⟨.alarm r, .queued, 0⟩] }, true))
    ∧ ((∀ e ∈ u.store, ¬mine e) → 22 ≤ u.store.length → u.offerAlarm r = (u, false)))
  ∧ ∀ (u : ReportUnit) (e : EngineEvent),
    let joins (x : ReportEntry) : Prop := x.state = .queued ∧ ∃ n, x.report = .engine (.reportsDropped n)
    (∀ k n pre x post, e = .reportsDropped k → u.store = pre ++ x :: post → x.state = .queued →
      x.report = .engine (.reportsDropped n) → (∀ y ∈ pre, ¬joins y) →
      let added : ReportEntry :=
        { x with report := .engine (.reportsDropped (BitVec.ofNat 16 (min 65535 (n.toNat + k.toNat)))) }
      u.offerEngine e = { u with store := pre ++ added :: post })
    ∧ (((∀ k, e ≠ .reportsDropped k) ∨ ∀ x ∈ u.store, ¬joins x) →
        (u.store.length < 24 →
          u.offerEngine e = { u with store := u.store ++ [⟨.engine e, .queued, 0⟩] })
        ∧ (24 ≤ u.store.length → (∀ o ∈ u.engineOwed, o.sameKind e = false) →
            u.offerEngine e = { u with engineOwed := u.engineOwed ++ [e] })
        ∧ (∀ pre o post, 24 ≤ u.store.length → u.engineOwed = pre ++ o :: post → o.sameKind e = true →
            (∀ y ∈ pre ++ post, y.sameKind e = false) →
            u.offerEngine e = { u with engineOwed := pre ++ post ++ [match o, e with
              | .reportsDropped n, .reportsDropped k =>
                .reportsDropped (BitVec.ofNat 16 (min 65535 (n.toNat + k.toNat)))
              | _, new => new] }))

/-- Once entries have left the store, the owed ENGINE events are appended in their order while it holds fewer than
24 entries, and the rest stay owed in their order; then the alarm-owed loops, in ascending loop number, while it
holds fewer than 22, each emptying its owed set; nothing else changes (R139). -/
def Obligations.OwedReportsAreAdmittedInOrder : Prop :=
  ∀ s : State, (∀ i, (s.loop i).alarms.owed ≠ 0 → ∀ e ∈ s.rep.store, e.queuedAlarmOf i = false) →
    let entry (r : Report) : ReportEntry := { report := r, state := .queued, retryCount := 0 }
    let n := min s.rep.engineOwed.length (24 - s.rep.store.length)
    let withEngine := s.rep.store ++ (s.rep.engineOwed.take n).map fun e => entry (.engine e)
    let owing : List LoopId := (List.finRange 16).filter fun i => (s.loop i).alarms.owed != 0
    let admitted := owing.take (22 - withEngine.length)
    let emptied (l : LoopEntry) : LoopEntry := { l with alarms := { l.alarms with owed := 0 } }
    s.admitOwed = { s with
      loops := Vector.ofFn fun i : LoopId => if i ∈ admitted then emptied (s.loop i) else s.loop i
      rep := { s.rep with
        store := withEngine ++ admitted.map fun i =>
          entry (.alarm ⟨i, (s.loop i).alarms.latched, (s.loop i).alarms.owed⟩)
        engineOwed := s.rep.engineOwed.drop n } }

/-- The OUTPUT report of a completion is decided by the report mode: EVERY produces it, DIVIDE at every nth
completion, CHANGE where no value was reported or the primary has moved by d or more, NONE never; a report produced
makes its primary the last-reported value, whatever becomes of it (R133, R134, R48). -/
def Obligations.CompletionReportsFollowTheReportMode : Prop :=
  ∀ (s : State) (i : LoopId) (d : Definition) (x : Instance) (k : Marks),
    let l := s.loop i
    let o : OutputReport :=
      { loop := i, primary := s.supplied (.primary i)
        secondary := if d.includeSecondary then some l.secondary else none
        releaseTick := x.releaseTick, safe := false, stale := k.stale, sat := k.sat }
    let told (counter : BitVec 8) : LoopEntry :=
      { l with divideCounter := counter, lastReported := some (s.supplied (.primary i)) }
    let reported (counter : BitVec 8) : State := { s with loops := s.loops.set i (told counter) }.offerOutput o
    let counted : LoopEntry := { l with divideCounter := l.divideCounter + 1 }
    (s.loop i).definition = some d →
    (d.reportMode = .every → s.completionOutput i d x k = reported l.divideCounter)
    ∧ (d.reportMode = .silent → s.completionOutput i d x k = s)
    ∧ (d.reportMode = .divide →
        (l.divideCounter.toNat + 1 = d.reportParam.toNat → s.completionOutput i d x k = reported 0)
        ∧ (l.divideCounter.toNat + 1 ≠ d.reportParam.toNat →
            s.completionOutput i d x k = { s with loops := s.loops.set i counted }))
    ∧ (d.reportMode = .change →
        (l.lastReported = none → s.completionOutput i d x k = reported l.divideCounter)
        ∧ (∀ v, l.lastReported = some v →
            (d.reportParam.toNat ≤ (l.primary.toInt - v.toInt).natAbs →
              s.completionOutput i d x k = reported l.divideCounter)
            ∧ ((l.primary.toInt - v.toInt).natAbs < d.reportParam.toNat → s.completionOutput i d x k = s)))

/-! ## Alignment and arithmetic -/

/-- At an arming point the next-release tick is the first tick after the arming tick whose count leaves remainder
offset when divided by period, the ticks taken in order across the wrap: 1 to period ticks ahead without a wrap,
at most 2 × period − 1 with one, and at most 131 069 in all (R83). -/
def Obligations.FirstReleaseIsTheFirstAlignedTick : Prop :=
  ∀ (now : Tick) (period offset : BitVec 16), 0 < period.toNat → offset.toNat < period.toNat →
    ∃ n : Nat, 1 ≤ n ∧ n ≤ 131069 ∧ n ≤ 2 * period.toNat - 1
      ∧ (now.toNat + n < 2 ^ 32 → n ≤ period.toNat)
      ∧ firstRelease now period offset = now + BitVec.ofNat 32 n
      ∧ (now + BitVec.ofNat 32 n).toNat % period.toNat = offset.toNat
      ∧ ∀ m, 1 ≤ m → m < n → (now + BitVec.ofNat 32 m).toNat % period.toNat ≠ offset.toNat

/-- GAIN: each targeted member becomes sat16 of its product with c0 shifted right, rounding toward minus infinity;
each clamp that changes its value marks SAT; the other member is handed on (R33, R31, R32). SUM: a becomes
sat16(((c0 × a + c1 × b) >> 14) + c2), exact before the clamp, and b is handed on (R34). DIV: with b not 0, a
becomes sat16 of (a × 2^shift) / b truncated toward zero; with b = 0 the instance is marked ARITH and not SAT, and a
becomes 32 767 or −32 768 by its sign; b is handed on (R39, R40). -/
def Obligations.GainSumAndDivAreExact : Prop :=
  (∀ (st : StageDesc) (c : Coefs) (m : StageMem) (a b : Count), st.op = .gain →
      let v (x : Count) : Int := x.toInt * c.c0.toInt / 2 ^ (st.shift : Nat)
      let sat16 (x : Int) : Int := max (-32768) (min 32767 x)
      let onA : Prop := st.target = 0 ∨ st.target = 2
      let onB : Prop := st.target = 1 ∨ st.target = 2
      let r := runStage st c m a b
      (onA → r.a.toInt = sat16 (v a)) ∧ (¬onA → r.a = a)
      ∧ (onB → r.b.toInt = sat16 (v b)) ∧ (¬onB → r.b = b)
      ∧ (r.sat = true ↔ (onA ∧ sat16 (v a) ≠ v a) ∨ (onB ∧ sat16 (v b) ≠ v b))
      ∧ r.proposal = none ∧ r.arith = false)
  ∧ (∀ (st : StageDesc) (c : Coefs) (m : StageMem) (a b : Count), st.op = .sum →
      let v : Int := (c.c0.toInt * a.toInt + c.c1.toInt * b.toInt) / 16384 + c.c2.toInt
      let r := runStage st c m a b
      r.a.toInt = max (-32768) (min 32767 v) ∧ r.b = b
      ∧ (r.sat = true ↔ v < -32768 ∨ 32767 < v) ∧ r.proposal = none ∧ r.arith = false)
  ∧ (∀ (st : StageDesc) (c : Coefs) (m : StageMem) (a b : Count), st.op = .div →
      let q : Int := Int.tdiv (a.toInt * 2 ^ (st.shift : Nat)) b.toInt
      let r := runStage st c m a b
      r.b = b ∧ r.proposal = none
      ∧ (b ≠ 0 → r.a.toInt = max (-32768) (min 32767 q) ∧ r.arith = false ∧ (r.sat = true ↔ q < -32768 ∨ 32767 < q))
      ∧ (b = 0 → r.a.toInt = (if 0 ≤ a.toInt then 32767 else -32768) ∧ r.arith = true ∧ r.sat = false))

/-- LPF, with its K of 0 or more: unseeded, it proposes a × 65 536 and hands a on; seeded, it proposes
f + ((K × (a × 65 536 − f)) >> 15), which needs no clamp, and hands on that value shifted right by 16; it raises no
mark (R35). -/
def Obligations.LpfFollowsItsInputWithoutSaturating : Prop :=
  ∀ (st : StageDesc) (c : Coefs) (m : StageMem) (a b : Count), st.op = .lpf → 0 ≤ c.c0.toInt →
    let f := m.word1.toInt
    let f' : Int := if m.seeded then f + c.c0.toInt * (a.toInt * 65536 - f) / 32768 else a.toInt * 65536
    let r := runStage st c m a b
    (∃ q, r.proposal = some q ∧ q.word1.toInt = f' ∧ q.word2 = none)
    ∧ r.a.toInt = f' / 65536 ∧ (m.seeded = false → r.a = a) ∧ r.b = b ∧ r.sat = false ∧ r.arith = false

/-- PID: error, clamped integrator, derivative on the previous error (none while unseeded), output shifted right by
12 and clamped; while the output saturates in the direction c1 × e drives it, the integrator read is proposed
instead; SAT is marked by the clamp of I′ and by the output's (R36, R37, R38). -/
def Obligations.PidHoldsItsIntegratorInSaturation : Prop :=
  ∀ (st : StageDesc) (c : Coefs) (m : StageMem) (a b : Count), st.op = .pid →
    -134213632 ≤ m.word1.toInt → m.word1.toInt ≤ 134213632 →
    let e : Int := (if st.setpointFromB then b.toInt else c.c3.toInt) - a.toInt
    let ePrev : Int := if m.seeded then m.word2.toInt else e
    let raw : Int := m.word1.toInt + c.c1.toInt * e
    let next : Int := max (-134213632) (min 134213632 raw)
    let u : Int := (c.c0.toInt * e + next + c.c2.toInt * (e - ePrev)) / 4096
    let held : Prop := (0 < c.c1.toInt * e ∧ 32767 < u) ∨ (c.c1.toInt * e < 0 ∧ u < -32768)
    let r := runStage st c m a b
    r.a.toInt = max (-32768) (min 32767 u) ∧ r.b = b
    ∧ (∃ q w, r.proposal = some q ∧ q.word2 = some w ∧ w.toInt = e
        ∧ (held → q.word1 = m.word1) ∧ (¬held → q.word1.toInt = next))
    ∧ (r.sat = true ↔ next ≠ raw ∨ u < -32768 ∨ 32767 < u) ∧ r.arith = false

/-- LIMIT: a is clamped to lo..hi and then, where the rate is above 0 and the stage is seeded, to within the rate of
the last value handed on, which takes precedence; the value handed on is the one proposed; either clamp that changes
a marks SAT (R44, R45). -/
def Obligations.LimitClampsRangeThenRate : Prop :=
  ∀ (st : StageDesc) (c : Coefs) (m : StageMem) (a b : Count), st.op = .limit → c.c0.toInt ≤ c.c1.toInt →
    -32768 ≤ m.word1.toInt → m.word1.toInt ≤ 32767 →
    let ranged : Int := max c.c0.toInt (min c.c1.toInt a.toInt)
    let v : Int :=
      if 0 < c.c2.toInt ∧ m.seeded = true then
        max (m.word1.toInt - c.c2.toInt) (min (m.word1.toInt + c.c2.toInt) ranged)
      else ranged
    let r := runStage st c m a b
    r.a.toInt = v ∧ r.b = b ∧ (∃ q, r.proposal = some q ∧ q.word1.toInt = v ∧ q.word2 = none)
    ∧ (r.sat = true ↔ ranged ≠ a.toInt ∨ v ≠ ranged) ∧ r.arith = false

/-- ROTATE and ATAN: the integers formed lie within 2 counts of the exact values rounded to the nearest integer, said
here as within 2½ of the exact values themselves, with 2^-45 of a count (2^-32 for the angle, taken modulo 65 536)
allowed for what a proof can bound; no exact value comes that near a tie. The clamps and SAT are decided on the values
formed, which are a fixed function of a, b and the angle; the angle of ATAN is not clamped; neither has memory or marks
ARITH (R41 to R43). Which value is formed within the bounds the manual leaves open (log entry 1, a free value). In the
cases of R43 the results are exact, with the clamp that acts where one is 32 768; `n` is a count negated and
clamped. -/
def Obligations.RotateAndAtanExactCases : Prop :=
  ∀ (st : StageDesc) (c : Coefs) (m : StageMem) (a b : Count),
    let n (x : Count) : Count := if x = 0x8000 then 0x7FFF else -x
    let lost (x : Count) : Bool := x == 0x8000
    let sat16 (v : Int) : Int := max (-32768) (min 32767 v)
    let r := runStage st c m a b
    let x : ℝ := a.toInt
    let y : ℝ := b.toInt
    let θ : ℝ := 2 * Real.pi * c.c0.toNat / 65536
    (st.op = .rotate → ∃ v w : Int,
      |(v : ℝ) - (x * Real.cos θ + y * Real.sin θ)| ≤ 5 / 2 + 1 / 2 ^ 45
      ∧ |(w : ℝ) - (y * Real.cos θ - x * Real.sin θ)| ≤ 5 / 2 + 1 / 2 ^ 45
      ∧ r.a.toInt = sat16 v ∧ r.b.toInt = sat16 w ∧ (r.sat = true ↔ sat16 v ≠ v ∨ sat16 w ≠ w)
      ∧ r.proposal = none ∧ r.arith = false)
    ∧ (st.op = .atan → ∃ v g turns : Int,
      |(v : ℝ) - Real.sqrt (x ^ 2 + y ^ 2)| ≤ 5 / 2
      ∧ |(g : ℝ) - 65536 * turns - 65536 * Complex.arg ⟨x, y⟩ / (2 * Real.pi)| ≤ 5 / 2 + 1 / 2 ^ 32
      ∧ r.a.toInt = sat16 v ∧ r.b = BitVec.ofInt 16 g ∧ (r.sat = true ↔ 32767 < v)
      ∧ r.proposal = none ∧ r.arith = false)
    ∧ (∀ (st' : StageDesc) (c' : Coefs) (m' : StageMem), st'.op = st.op →
      (st.op = .rotate ∧ c'.c0 = c.c0) ∨ st.op = .atan → runStage st' c' m' a b = r)
    ∧ (st.op = .rotate →
      (c.c0 = 0 → r = ⟨a, b, none, false, false⟩)
      ∧ (c.c0 = 0x4000 → r = ⟨b, n a, none, lost a, false⟩)
      ∧ (c.c0 = 0x8000 → r = ⟨n a, n b, none, lost a || lost b, false⟩)
      ∧ (c.c0 = 0xC000 → r = ⟨n b, a, none, lost b, false⟩))
    ∧ (st.op = .atan →
      (a = 0 → b = 0 → r = ⟨0, 0, none, false, false⟩)
      ∧ (b = 0 → 0 < a.toInt → r = ⟨a, 0, none, false, false⟩)
      ∧ (a = 0 → 0 < b.toInt → r = ⟨b, 0x4000, none, false, false⟩)
      ∧ (b = 0 → a.toInt < 0 → r = ⟨n a, 0x8000, none, lost a, false⟩)
      ∧ (a = 0 → b.toInt < 0 → r = ⟨n b, 0xC000, none, lost b, false⟩))

/-! ## Invariants -/

/-- The mode, the loop states, the next-release ticks, the due queue, the running slot and the suspension stack
agree after every step from a state in which they agree (R9, R81, R98, R99, R102, R108, R116, R181, R182). -/
def Obligations.LoopsAndUnitStayConsistent : Prop :=
  ∀ s t : State, LoopInv s → step s = .next t → LoopInv t

/-- Every definition stays one DEFINE_LOOP accepts, and no illegal coefficient word reaches either bank
(R13, R46, R52, R55). The runtime memory words of every stage, and the words the live instances propose, stay within the
ranges of R5, unused words stay 0, and an unseeded stage holds zeros (R5, R30, R50). -/
def Obligations.CoefficientBanksStayLegal : Prop :=
  (∀ s t : State, CoefInv s → step s = .next t → CoefInv t)
  ∧ ∀ s t : State, LoopInv s → MemInv s → step s = .next t → MemInv t

/-- The report store keeps its sizes, at most one QUEUED report of a kind per loop, the RSN holders at its head with
consecutive RSNs, and a retry timer that runs only for them (R130, R132, R142, R143, R144). -/
def Obligations.ReportStoreStaysOrdered : Prop :=
  ∀ s t : State, StoreInv s → step s = .next t → StoreInv t

/-- Owed flags stay latched and enabled, ALERT_N follows the latched, enabled flags, and a loop stays owed only for
want of room (R121, R122, R125, R139). -/
def Obligations.AlarmRecordsStayConsistent : Prop :=
  ∀ s t : State, AlarmInv s → step s = .next t → AlarmInv t

/-- The link state stays the one R164 judges from the LEC, the slots and the response queue keep their sizes, a
waiting request always has a reason to wait, and the partial frame and the gap timer agree (R154, R159 to R164,
R171, R191). -/
def Obligations.LinkUnitStaysConsistent : Prop :=
  ∀ s t : State, LinkInv s → step s = .next t → LinkInv t

/-- All the invariants hold in the state after reset. -/
def Obligations.ResetStateMeetsTheInvariants : Prop := Inv State.reset
end

