-- ==== Sys2Proof/Laws/State.lean ====
section
/-! SUPPORT. What each update of the state leaves alone, field by field, and reading back a loop entry. -/

namespace Sys2Proof.Machine

@[simp] theorem loop_setLoop_self (s : State) (i : LoopId) (l : LoopEntry) : (s.setLoop i l).loop i = l := by
  simp [State.setLoop, State.loop]

@[simp] theorem loop_setLoop_ne (s : State) {i j : LoopId} (l : LoopEntry) (h : j ≠ i) :
    (s.setLoop i l).loop j = s.loop j := by
  have h' : (i : Nat) ≠ j := fun e => h (Fin.ext e.symm)
  simp [State.setLoop, State.loop, h']

theorem loop_setLoop (s : State) (i j : LoopId) (l : LoopEntry) :
    (s.setLoop i l).loop j = if j = i then l else s.loop j := by
  by_cases h : j = i
  · subst h; simp
  · simp [h]

@[simp] theorem loop_modLoop_self (s : State) (i : LoopId) (f : LoopEntry → LoopEntry) :
    (s.modLoop i f).loop i = f (s.loop i) := by simp [State.modLoop]

@[simp] theorem loop_modLoop_ne (s : State) {i j : LoopId} (f : LoopEntry → LoopEntry) (h : j ≠ i) :
    (s.modLoop i f).loop j = s.loop j := by simp [State.modLoop, h]

theorem loop_modLoop (s : State) (i j : LoopId) (f : LoopEntry → LoopEntry) :
    (s.modLoop i f).loop j = if j = i then f (s.loop i) else s.loop j := by
  simp [State.modLoop, loop_setLoop]

/-- A loop entry depends on the loop table alone. -/
theorem loop_congr {s t : State} (h : t.loops = s.loops) (i : LoopId) : t.loop i = s.loop i := by
  simp [State.loop, h]

/-- Two states with the same loop entries have the same loop table. -/
theorem loops_ext {v w : Vector LoopEntry 16} (h : ∀ i : LoopId, v[i] = w[i]) : v = w := by
  ext1
  exact h ⟨_, ‹_›⟩

@[simp] theorem State.setLoop_power (s : State) (i : LoopId) (l : LoopEntry) : (s.setLoop i l).power = s.power := rfl
@[simp] theorem State.setLoop_samples (s : State) (i : LoopId) (l : LoopEntry) : (s.setLoop i l).samples = s.samples := rfl
@[simp] theorem State.setLoop_time (s : State) (i : LoopId) (l : LoopEntry) : (s.setLoop i l).time = s.time := rfl
@[simp] theorem State.setLoop_cu (s : State) (i : LoopId) (l : LoopEntry) : (s.setLoop i l).cu = s.cu := rfl
@[simp] theorem State.setLoop_ctl (s : State) (i : LoopId) (l : LoopEntry) : (s.setLoop i l).ctl = s.ctl := rfl
@[simp] theorem State.setLoop_alertN (s : State) (i : LoopId) (l : LoopEntry) : (s.setLoop i l).alertN = s.alertN := rfl
@[simp] theorem State.setLoop_rep (s : State) (i : LoopId) (l : LoopEntry) : (s.setLoop i l).rep = s.rep := rfl
@[simp] theorem State.setLoop_link (s : State) (i : LoopId) (l : LoopEntry) : (s.setLoop i l).link = s.link := rfl
@[simp] theorem State.setLoop_choices (s : State) (i : LoopId) (l : LoopEntry) : (s.setLoop i l).choices = s.choices := rfl
@[simp] theorem State.setLoop_pending (s : State) (i : LoopId) (l : LoopEntry) : (s.setLoop i l).pending = s.pending := rfl

@[simp] theorem State.modLoop_power (s : State) (i : LoopId) (f : LoopEntry → LoopEntry) : (s.modLoop i f).power = s.power := rfl
@[simp] theorem State.modLoop_samples (s : State) (i : LoopId) (f : LoopEntry → LoopEntry) : (s.modLoop i f).samples = s.samples := rfl
@[simp] theorem State.modLoop_time (s : State) (i : LoopId) (f : LoopEntry → LoopEntry) : (s.modLoop i f).time = s.time := rfl
@[simp] theorem State.modLoop_cu (s : State) (i : LoopId) (f : LoopEntry → LoopEntry) : (s.modLoop i f).cu = s.cu := rfl
@[simp] theorem State.modLoop_ctl (s : State) (i : LoopId) (f : LoopEntry → LoopEntry) : (s.modLoop i f).ctl = s.ctl := rfl
@[simp] theorem State.modLoop_alertN (s : State) (i : LoopId) (f : LoopEntry → LoopEntry) : (s.modLoop i f).alertN = s.alertN := rfl
@[simp] theorem State.modLoop_rep (s : State) (i : LoopId) (f : LoopEntry → LoopEntry) : (s.modLoop i f).rep = s.rep := rfl
@[simp] theorem State.modLoop_link (s : State) (i : LoopId) (f : LoopEntry → LoopEntry) : (s.modLoop i f).link = s.link := rfl
@[simp] theorem State.modLoop_choices (s : State) (i : LoopId) (f : LoopEntry → LoopEntry) : (s.modLoop i f).choices = s.choices := rfl
@[simp] theorem State.modLoop_pending (s : State) (i : LoopId) (f : LoopEntry → LoopEntry) : (s.modLoop i f).pending = s.pending := rfl

@[simp] theorem State.setSlot_power (s : State) (k : SlotId) (x : SampleSlot) : (s.setSlot k x).power = s.power := rfl
@[simp] theorem State.setSlot_loops (s : State) (k : SlotId) (x : SampleSlot) : (s.setSlot k x).loops = s.loops := rfl
@[simp] theorem State.setSlot_time (s : State) (k : SlotId) (x : SampleSlot) : (s.setSlot k x).time = s.time := rfl
@[simp] theorem State.setSlot_cu (s : State) (k : SlotId) (x : SampleSlot) : (s.setSlot k x).cu = s.cu := rfl
@[simp] theorem State.setSlot_ctl (s : State) (k : SlotId) (x : SampleSlot) : (s.setSlot k x).ctl = s.ctl := rfl
@[simp] theorem State.setSlot_alertN (s : State) (k : SlotId) (x : SampleSlot) : (s.setSlot k x).alertN = s.alertN := rfl
@[simp] theorem State.setSlot_rep (s : State) (k : SlotId) (x : SampleSlot) : (s.setSlot k x).rep = s.rep := rfl
@[simp] theorem State.setSlot_link (s : State) (k : SlotId) (x : SampleSlot) : (s.setSlot k x).link = s.link := rfl
@[simp] theorem State.setSlot_choices (s : State) (k : SlotId) (x : SampleSlot) : (s.setSlot k x).choices = s.choices := rfl
@[simp] theorem State.setSlot_pending (s : State) (k : SlotId) (x : SampleSlot) : (s.setSlot k x).pending = s.pending := rfl

@[simp] theorem State.withPending_power (s : State) (l : List Instr) : (s.withPending l).power = s.power := rfl
@[simp] theorem State.withPending_loops (s : State) (l : List Instr) : (s.withPending l).loops = s.loops := rfl
@[simp] theorem State.withPending_samples (s : State) (l : List Instr) : (s.withPending l).samples = s.samples := rfl
@[simp] theorem State.withPending_time (s : State) (l : List Instr) : (s.withPending l).time = s.time := rfl
@[simp] theorem State.withPending_cu (s : State) (l : List Instr) : (s.withPending l).cu = s.cu := rfl
@[simp] theorem State.withPending_ctl (s : State) (l : List Instr) : (s.withPending l).ctl = s.ctl := rfl
@[simp] theorem State.withPending_alertN (s : State) (l : List Instr) : (s.withPending l).alertN = s.alertN := rfl
@[simp] theorem State.withPending_rep (s : State) (l : List Instr) : (s.withPending l).rep = s.rep := rfl
@[simp] theorem State.withPending_link (s : State) (l : List Instr) : (s.withPending l).link = s.link := rfl
@[simp] theorem State.withPending_choices (s : State) (l : List Instr) : (s.withPending l).choices = s.choices := rfl

@[simp] theorem State.refreshAlert_power (s : State) : (s.refreshAlert).power = s.power := rfl
@[simp] theorem State.refreshAlert_loops (s : State) : (s.refreshAlert).loops = s.loops := rfl
@[simp] theorem State.refreshAlert_samples (s : State) : (s.refreshAlert).samples = s.samples := rfl
@[simp] theorem State.refreshAlert_time (s : State) : (s.refreshAlert).time = s.time := rfl
@[simp] theorem State.refreshAlert_cu (s : State) : (s.refreshAlert).cu = s.cu := rfl
@[simp] theorem State.refreshAlert_ctl (s : State) : (s.refreshAlert).ctl = s.ctl := rfl
@[simp] theorem State.refreshAlert_rep (s : State) : (s.refreshAlert).rep = s.rep := rfl
@[simp] theorem State.refreshAlert_link (s : State) : (s.refreshAlert).link = s.link := rfl
@[simp] theorem State.refreshAlert_choices (s : State) : (s.refreshAlert).choices = s.choices := rfl
@[simp] theorem State.refreshAlert_pending (s : State) : (s.refreshAlert).pending = s.pending := rfl

@[simp] theorem State.offerEngine_power (s : State) (e : EngineEvent) : (s.offerEngine e).power = s.power := rfl
@[simp] theorem State.offerEngine_loops (s : State) (e : EngineEvent) : (s.offerEngine e).loops = s.loops := rfl
@[simp] theorem State.offerEngine_samples (s : State) (e : EngineEvent) : (s.offerEngine e).samples = s.samples := rfl
@[simp] theorem State.offerEngine_time (s : State) (e : EngineEvent) : (s.offerEngine e).time = s.time := rfl
@[simp] theorem State.offerEngine_cu (s : State) (e : EngineEvent) : (s.offerEngine e).cu = s.cu := rfl
@[simp] theorem State.offerEngine_ctl (s : State) (e : EngineEvent) : (s.offerEngine e).ctl = s.ctl := rfl
@[simp] theorem State.offerEngine_alertN (s : State) (e : EngineEvent) : (s.offerEngine e).alertN = s.alertN := rfl
@[simp] theorem State.offerEngine_link (s : State) (e : EngineEvent) : (s.offerEngine e).link = s.link := rfl
@[simp] theorem State.offerEngine_choices (s : State) (e : EngineEvent) : (s.offerEngine e).choices = s.choices := rfl
@[simp] theorem State.offerEngine_pending (s : State) (e : EngineEvent) : (s.offerEngine e).pending = s.pending := rfl

@[simp] theorem State.dropRunning_power (s : State) : (s.dropRunning).power = s.power := rfl
@[simp] theorem State.dropRunning_loops (s : State) : (s.dropRunning).loops = s.loops := rfl
@[simp] theorem State.dropRunning_samples (s : State) : (s.dropRunning).samples = s.samples := rfl
@[simp] theorem State.dropRunning_time (s : State) : (s.dropRunning).time = s.time := rfl
@[simp] theorem State.dropRunning_ctl (s : State) : (s.dropRunning).ctl = s.ctl := rfl
@[simp] theorem State.dropRunning_alertN (s : State) : (s.dropRunning).alertN = s.alertN := rfl
@[simp] theorem State.dropRunning_rep (s : State) : (s.dropRunning).rep = s.rep := rfl
@[simp] theorem State.dropRunning_link (s : State) : (s.dropRunning).link = s.link := rfl
@[simp] theorem State.dropRunning_choices (s : State) : (s.dropRunning).choices = s.choices := rfl
@[simp] theorem State.dropRunning_pending (s : State) : (s.dropRunning).pending = s.pending := rfl

@[simp] theorem State.beginStage_power (s : State) (x : Instance) (due stack : List Instance) : (s.beginStage x due stack).power = s.power := rfl
@[simp] theorem State.beginStage_samples (s : State) (x : Instance) (due stack : List Instance) : (s.beginStage x due stack).samples = s.samples := rfl
@[simp] theorem State.beginStage_time (s : State) (x : Instance) (due stack : List Instance) : (s.beginStage x due stack).time = s.time := rfl
@[simp] theorem State.beginStage_ctl (s : State) (x : Instance) (due stack : List Instance) : (s.beginStage x due stack).ctl = s.ctl := rfl
@[simp] theorem State.beginStage_alertN (s : State) (x : Instance) (due stack : List Instance) : (s.beginStage x due stack).alertN = s.alertN := rfl
@[simp] theorem State.beginStage_rep (s : State) (x : Instance) (due stack : List Instance) : (s.beginStage x due stack).rep = s.rep := rfl
@[simp] theorem State.beginStage_link (s : State) (x : Instance) (due stack : List Instance) : (s.beginStage x due stack).link = s.link := rfl
@[simp] theorem State.beginStage_choices (s : State) (x : Instance) (due stack : List Instance) : (s.beginStage x due stack).choices = s.choices := rfl
@[simp] theorem State.beginStage_pending (s : State) (x : Instance) (due stack : List Instance) : (s.beginStage x due stack).pending = s.pending := rfl

@[simp] theorem State.toHunt_power (s : State) : (s.toHunt).power = s.power := rfl
@[simp] theorem State.toHunt_loops (s : State) : (s.toHunt).loops = s.loops := rfl
@[simp] theorem State.toHunt_samples (s : State) : (s.toHunt).samples = s.samples := rfl
@[simp] theorem State.toHunt_time (s : State) : (s.toHunt).time = s.time := rfl
@[simp] theorem State.toHunt_cu (s : State) : (s.toHunt).cu = s.cu := rfl
@[simp] theorem State.toHunt_ctl (s : State) : (s.toHunt).ctl = s.ctl := rfl
@[simp] theorem State.toHunt_alertN (s : State) : (s.toHunt).alertN = s.alertN := rfl
@[simp] theorem State.toHunt_rep (s : State) : (s.toHunt).rep = s.rep := rfl
@[simp] theorem State.toHunt_choices (s : State) : (s.toHunt).choices = s.choices := rfl
@[simp] theorem State.toHunt_pending (s : State) : (s.toHunt).pending = s.pending := rfl

@[simp] theorem State.modCounters_power (s : State) (f : LinkCounters → LinkCounters) : (s.modCounters f).power = s.power := rfl
@[simp] theorem State.modCounters_loops (s : State) (f : LinkCounters → LinkCounters) : (s.modCounters f).loops = s.loops := rfl
@[simp] theorem State.modCounters_samples (s : State) (f : LinkCounters → LinkCounters) : (s.modCounters f).samples = s.samples := rfl
@[simp] theorem State.modCounters_time (s : State) (f : LinkCounters → LinkCounters) : (s.modCounters f).time = s.time := rfl
@[simp] theorem State.modCounters_cu (s : State) (f : LinkCounters → LinkCounters) : (s.modCounters f).cu = s.cu := rfl
@[simp] theorem State.modCounters_ctl (s : State) (f : LinkCounters → LinkCounters) : (s.modCounters f).ctl = s.ctl := rfl
@[simp] theorem State.modCounters_alertN (s : State) (f : LinkCounters → LinkCounters) : (s.modCounters f).alertN = s.alertN := rfl
@[simp] theorem State.modCounters_rep (s : State) (f : LinkCounters → LinkCounters) : (s.modCounters f).rep = s.rep := rfl
@[simp] theorem State.modCounters_choices (s : State) (f : LinkCounters → LinkCounters) : (s.modCounters f).choices = s.choices := rfl
@[simp] theorem State.modCounters_pending (s : State) (f : LinkCounters → LinkCounters) : (s.modCounters f).pending = s.pending := rfl

@[simp] theorem State.restartSupervision_power (s : State) : (s.restartSupervision).power = s.power := rfl
@[simp] theorem State.restartSupervision_loops (s : State) : (s.restartSupervision).loops = s.loops := rfl
@[simp] theorem State.restartSupervision_samples (s : State) : (s.restartSupervision).samples = s.samples := rfl
@[simp] theorem State.restartSupervision_time (s : State) : (s.restartSupervision).time = s.time := rfl
@[simp] theorem State.restartSupervision_cu (s : State) : (s.restartSupervision).cu = s.cu := rfl
@[simp] theorem State.restartSupervision_alertN (s : State) : (s.restartSupervision).alertN = s.alertN := rfl
@[simp] theorem State.restartSupervision_rep (s : State) : (s.restartSupervision).rep = s.rep := rfl
@[simp] theorem State.restartSupervision_link (s : State) : (s.restartSupervision).link = s.link := rfl
@[simp] theorem State.restartSupervision_choices (s : State) : (s.restartSupervision).choices = s.choices := rfl
@[simp] theorem State.restartSupervision_pending (s : State) : (s.restartSupervision).pending = s.pending := rfl

@[simp] theorem State.respond_power (s : State) (f : Frame) (p : List Byte) : (s.respond f p).power = s.power := rfl
@[simp] theorem State.respond_loops (s : State) (f : Frame) (p : List Byte) : (s.respond f p).loops = s.loops := rfl
@[simp] theorem State.respond_samples (s : State) (f : Frame) (p : List Byte) : (s.respond f p).samples = s.samples := rfl
@[simp] theorem State.respond_time (s : State) (f : Frame) (p : List Byte) : (s.respond f p).time = s.time := rfl
@[simp] theorem State.respond_cu (s : State) (f : Frame) (p : List Byte) : (s.respond f p).cu = s.cu := rfl
@[simp] theorem State.respond_ctl (s : State) (f : Frame) (p : List Byte) : (s.respond f p).ctl = s.ctl := rfl
@[simp] theorem State.respond_alertN (s : State) (f : Frame) (p : List Byte) : (s.respond f p).alertN = s.alertN := rfl
@[simp] theorem State.respond_rep (s : State) (f : Frame) (p : List Byte) : (s.respond f p).rep = s.rep := rfl
@[simp] theorem State.respond_choices (s : State) (f : Frame) (p : List Byte) : (s.respond f p).choices = s.choices := rfl
@[simp] theorem State.respond_pending (s : State) (f : Frame) (p : List Byte) : (s.respond f p).pending = s.pending := rfl

@[simp] theorem State.configure_power (s : State) (n i w t l : Nat) : (s.configure n i w t l).power = s.power := rfl
@[simp] theorem State.configure_loops (s : State) (n i w t l : Nat) : (s.configure n i w t l).loops = s.loops := rfl
@[simp] theorem State.configure_samples (s : State) (n i w t l : Nat) : (s.configure n i w t l).samples = s.samples := rfl
@[simp] theorem State.configure_cu (s : State) (n i w t l : Nat) : (s.configure n i w t l).cu = s.cu := rfl
@[simp] theorem State.configure_alertN (s : State) (n i w t l : Nat) : (s.configure n i w t l).alertN = s.alertN := rfl
@[simp] theorem State.configure_link (s : State) (n i w t l : Nat) : (s.configure n i w t l).link = s.link := rfl
@[simp] theorem State.configure_choices (s : State) (n i w t l : Nat) : (s.configure n i w t l).choices = s.choices := rfl
@[simp] theorem State.configure_pending (s : State) (n i w t l : Nat) : (s.configure n i w t l).pending = s.pending := rfl

@[simp] theorem State.endInstance_power (s : State) (i : LoopId) : (s.endInstance i).power = s.power := rfl
@[simp] theorem State.endInstance_samples (s : State) (i : LoopId) : (s.endInstance i).samples = s.samples := rfl
@[simp] theorem State.endInstance_time (s : State) (i : LoopId) : (s.endInstance i).time = s.time := rfl
@[simp] theorem State.endInstance_ctl (s : State) (i : LoopId) : (s.endInstance i).ctl = s.ctl := rfl
@[simp] theorem State.endInstance_alertN (s : State) (i : LoopId) : (s.endInstance i).alertN = s.alertN := rfl
@[simp] theorem State.endInstance_rep (s : State) (i : LoopId) : (s.endInstance i).rep = s.rep := rfl
@[simp] theorem State.endInstance_link (s : State) (i : LoopId) : (s.endInstance i).link = s.link := rfl
@[simp] theorem State.endInstance_choices (s : State) (i : LoopId) : (s.endInstance i).choices = s.choices := rfl
@[simp] theorem State.endInstance_pending (s : State) (i : LoopId) : (s.endInstance i).pending = s.pending := rfl

end Sys2Proof.Machine
end

