-- ==== Sys2Proof/Laws/Frames.lean ====
section
/-! SUPPORT. What each shared operation can change: one lemma each, whose right side names every field the
operation may touch, and what it does to a loop entry. -/

namespace Sys2Proof.Machine

/-! ## The loop table -/

/-- Changes of loop entries, one after another, change the loop table alone. -/
theorem foldl_modLoop_only (f : LoopId → LoopEntry → LoopEntry) (l : List LoopId) (s : State) :
    ∃ ls, l.foldl (fun t i => t.modLoop i (f i)) s = { s with loops := ls } := by
  induction l generalizing s with
  | nil => exact ⟨_, rfl⟩
  | cons i rest ih =>
    obtain ⟨ls, h⟩ := ih (s.modLoop i (f i))
    exact ⟨ls, by rw [List.foldl_cons, h]; rfl⟩

/-- A change of every loop entry by its own is one new loop table. -/
theorem eachLoop_modLoop (f : LoopId → LoopEntry → LoopEntry) (s : State) :
    s.eachLoop (fun i t => t.modLoop i (f i))
      = { s with loops := Vector.ofFn fun i : LoopId => f i (s.loop i) } := by
  have hloop : ∀ j : LoopId, (s.eachLoop fun i t => t.modLoop i (f i)).loop j = f j (s.loop j) := by
    intro j
    fin_cases j <;> simp [State.eachLoop, allLoops]
  obtain ⟨ls, h⟩ : ∃ ls, s.eachLoop (fun i t => t.modLoop i (f i)) = { s with loops := ls } :=
    foldl_modLoop_only f allLoops s
  rw [h] at hloop ⊢
  congr 1
  exact loops_ext fun i => by simpa [State.loop] using hloop i

/-- The same for the named loops, the rest unchanged. -/
theorem eachNamed_modLoop (m : LoopMask) (f : LoopEntry → LoopEntry) (s : State) :
    s.eachNamed m (fun i t => t.modLoop i f)
      = { s with loops := Vector.ofFn fun i : LoopId => if names m i then f (s.loop i) else s.loop i } := by
  have h := eachLoop_modLoop (fun i l => if names m i then f l else l) s
  rw [← h]
  simp only [State.eachNamed]
  congr 1
  funext i t
  split
  · rfl
  · simp [State.modLoop, State.setLoop, State.loop]

/-! ## Reports and alarms -/

/-- An OUTPUT offer changes the report unit and the loop table (R135). -/
theorem offerOutput_only (s : State) (r : OutputReport) :
    ∃ u ls, s.offerOutput r = { s with rep := u, loops := ls } := by
  unfold State.offerOutput
  split <;> exact ⟨_, _, rfl⟩

/-- An OUTPUT offer leaves every loop entry but for the outputs-dropped statistic of its own loop (R135). -/
theorem offerOutput_loop (s : State) (r : OutputReport) (j : LoopId) :
    (s.offerOutput r).loop j = s.loop j
      ∨ (j = r.loop ∧ (s.offerOutput r).loop j = { s.loop j with stats := (s.loop j).stats.incDropped }) := by
  unfold State.offerOutput
  split
  · exact .inl rfl
  · by_cases h : j = r.loop
    · subst h; exact .inr ⟨rfl, by rw [loop_modLoop_self]; rfl⟩
    · exact .inl (by rw [loop_modLoop_ne _ _ h]; rfl)

/-- An OUTPUT report produced changes the report unit and the loop table (R134). -/
theorem produceOutput_only (s : State) (r : OutputReport) :
    ∃ u ls, s.produceOutput r = { s with rep := u, loops := ls } := by
  obtain ⟨u, ls, h⟩ := offerOutput_only (s.modLoop r.loop fun l => { l with lastReported := some r.primary }) r
  exact ⟨u, ls, h⟩

/-- Of its own loop an OUTPUT report produced sets the last-reported value, and may raise outputs-dropped; it leaves
every other loop (R134, R135). -/
theorem produceOutput_loop (s : State) (r : OutputReport) :
    (∀ j, j ≠ r.loop → (s.produceOutput r).loop j = s.loop j)
      ∧ ((s.produceOutput r).loop r.loop = { s.loop r.loop with lastReported := some r.primary }
        ∨ (s.produceOutput r).loop r.loop = { s.loop r.loop with
            lastReported := some r.primary, stats := (s.loop r.loop).stats.incDropped }) := by
  have h := offerOutput_loop (s.modLoop r.loop fun l => { l with lastReported := some r.primary }) r
  unfold State.produceOutput
  constructor
  · intro j hj
    rcases h j with h' | ⟨h', -⟩
    · rw [h']; simp [hj]
    · exact absurd h' hj
  · rcases h r.loop with h' | ⟨-, h'⟩
    · left; rw [h']; simp
    · right; rw [h']; simp

/-- The SAFE-marked report of a loop changes the report unit and the loop table (R24). -/
theorem safeOutput_only (s : State) (i : LoopId) : ∃ u ls, s.safeOutput i = { s with rep := u, loops := ls } := by
  unfold State.safeOutput
  split
  · exact ⟨_, _, rfl⟩
  · split
    · exact ⟨_, _, rfl⟩
    · exact produceOutput_only _ _

/-- An ALARM offer changes the report unit and the loop table (R120, R121). -/
theorem offerAlarm_only (s : State) (i : LoopId) (f : FlagSet) :
    ∃ u ls, s.offerAlarm i f = { s with rep := u, loops := ls } := by
  unfold State.offerAlarm
  split <;> exact ⟨_, _, rfl⟩

/-- What an ALARM offer does to the loop entries: it sets the owed set of its own loop (R120, R121). -/
theorem offerAlarm_loop (s : State) (i : LoopId) (f : FlagSet) :
    (∀ j, j ≠ i → (s.offerAlarm i f).loop j = s.loop j)
      ∧ ((s.offerAlarm i f).loop i = { s.loop i with alarms := { (s.loop i).alarms with owed := 0 } }
        ∨ (s.offerAlarm i f).loop i = { s.loop i with alarms := { (s.loop i).alarms with owed := f } }) := by
  unfold State.offerAlarm
  constructor
  · intro j h
    split <;> (rw [loop_modLoop_ne _ _ h]; rfl)
  · split
    · left; rw [loop_modLoop_self]; rfl
    · right; rw [loop_modLoop_self]; rfl

/-- Newly raised flags change the report unit and the loop table (R120). -/
theorem raiseAlarm_only (s : State) (i : LoopId) (f : FlagSet) :
    ∃ u ls, s.raiseAlarm i f = { s with rep := u, loops := ls } := by
  unfold State.raiseAlarm
  split
  · exact ⟨_, _, rfl⟩
  · exact offerAlarm_only _ _ _

/-- What newly raised flags do to the loop entries (R120, R121). -/
theorem raiseAlarm_loop (s : State) (i : LoopId) (f : FlagSet) :
    (∀ j, j ≠ i → (s.raiseAlarm i f).loop j = s.loop j)
      ∧ ∃ owed, (s.raiseAlarm i f).loop i = { s.loop i with alarms := { (s.loop i).alarms with owed := owed } } := by
  unfold State.raiseAlarm
  split
  · exact ⟨fun _ _ => rfl, (s.loop i).alarms.owed, rfl⟩
  · refine ⟨(offerAlarm_loop s i _).1, ?_⟩
    rcases (offerAlarm_loop s i (f ||| (s.loop i).alarms.owed)).2 with h | h <;> exact ⟨_, h⟩

/-- Flags handed to the alarm unit change the report unit, the loop table and ALERT_N (R119 to R122). -/
theorem handAlarms_only (s : State) (i : LoopId) (f : FlagSet) :
    ∃ u ls a, s.handAlarms i f = { s with rep := u, loops := ls, alertN := a } := by
  obtain ⟨u, ls, h⟩ := raiseAlarm_only (s.modLoop i fun l => { l with alarms := l.alarms.latch f }) i
    ((s.loop i).alarms.newlyRaised f)
  have e : s.handAlarms i f = State.refreshAlert ((s.modLoop i fun l => { l with alarms := l.alarms.latch f }).raiseAlarm
    i ((s.loop i).alarms.newlyRaised f)) := rfl
  rw [e, h]
  exact ⟨u, ls, _, rfl⟩

/-- Flags handed for a loop leave every other loop entry (R119). -/
theorem handAlarms_loop_ne (s : State) {i j : LoopId} (f : FlagSet) (h : j ≠ i) :
    (s.handAlarms i f).loop j = s.loop j := by
  have hr := (raiseAlarm_loop (s.modLoop i fun l => { l with alarms := l.alarms.latch f }) i
    ((s.loop i).alarms.newlyRaised f)).1 j h
  exact hr.trans (by simp [h])

/-- Flags handed for a loop latch, and change its owed set; nothing else of its entry (R119 to R121). -/
theorem handAlarms_loop_self (s : State) (i : LoopId) (f : FlagSet) :
    ∃ owed, (s.handAlarms i f).loop i = { s.loop i with
      alarms := { (s.loop i).alarms with latched := (s.loop i).alarms.latched ||| f, owed := owed } } := by
  obtain ⟨owed, h⟩ := (raiseAlarm_loop (s.modLoop i fun l => { l with alarms := l.alarms.latch f }) i
    ((s.loop i).alarms.newlyRaised f)).2
  exact ⟨owed, h.trans (by simp [AlarmRecord.latch])⟩

/-- An ENGINE event changes the report unit alone (R137). -/
theorem offerEngine_only (s : State) (e : EngineEvent) : s.offerEngine e = { s with rep := s.rep.offerEngine e } := rfl

/-! ## The computation unit -/

/-- The end of an instance changes the computation unit and its loop's instance status (R10, R111 to R113). -/
theorem endInstance_only (s : State) (i : LoopId) :
    s.endInstance i = { s with
      cu := s.cu.endInstance i (s.loop i).status
      loops := s.loops.set i { s.loop i with status := .noInstance } } := rfl

/-- A choice changes the computation unit and the loop table (R105 to R107). -/
theorem settleChoice_only (s : State) : ∃ u ls, s.settleChoice = { s with cu := u, loops := ls } := by
  unfold State.settleChoice
  split
  · split
    · unfold State.chooseEmpty
      split <;> first | exact ⟨_, _, rfl⟩ | (split <;> exact ⟨_, _, rfl⟩)
    · unfold State.chooseAtBoundary
      split
      · split <;> exact ⟨_, _, rfl⟩
      · exact ⟨_, _, rfl⟩
  · exact ⟨_, _, rfl⟩

/-- The start of a stage leaves of every loop entry all but the instance status (R106). -/
theorem beginStage_loop (s : State) (x : Instance) (q r : List Instance) (j : LoopId) :
    (s.beginStage x q r).loop j = if j = x.loop then { s.loop j with status := .running } else s.loop j := by
  have h : (s.beginStage x q r).loop j = (s.modLoop x.loop fun l => { l with status := .running }).loop j := rfl
  rw [h, loop_modLoop]
  split
  · rename_i e; rw [e]
  · rfl

/-- A choice leaves of every loop entry all but the instance status and the statistics (R105 to R107). -/
theorem settleChoice_loop (s : State) (j : LoopId) :
    ∃ a b, s.settleChoice.loop j = { s.loop j with status := a, stats := b } := by
  have hb : ∀ (t : State) (x : Instance) (q r : List Instance),
      (∃ a b, t.loop j = { s.loop j with status := a, stats := b }) →
      ∃ a b, (t.beginStage x q r).loop j = { s.loop j with status := a, stats := b } := by
    intro t x q r ⟨a, b, h⟩
    rw [beginStage_loop, h]
    split <;> exact ⟨_, _, rfl⟩
  have hs : ∃ a b, s.loop j = { s.loop j with status := a, stats := b } := ⟨_, _, rfl⟩
  unfold State.settleChoice
  split
  · split
    · unfold State.chooseEmpty
      split
      · exact hs
      · exact hb _ _ _ _ hs
      · exact hb _ _ _ _ hs
      · split <;> exact hb _ _ _ _ hs
    · unfold State.chooseAtBoundary
      split
      · split
        · refine hb _ _ _ _ ?_
          rw [loop_modLoop]
          split
          · rename_i e; rw [e]; exact ⟨_, _, rfl⟩
          · exact hs
        · exact hb _ _ _ _ hs
      · exact hb _ _ _ _ hs
  · exact hs

/-! ## The line -/

/-- The taking of a report changes the report unit and the transmitter (R142, R161). -/
theorem startReport_only (s : State) :
    ∃ u tx, s.startReport = { s with rep := u, link := { s.link with tx := tx } } := by
  unfold State.startReport
  split <;> exact ⟨_, _, rfl⟩

/-- The transmitter's choice changes the report unit, the response queue and the transmitter (R161). -/
theorem transmit_only (s : State) :
    ∃ u q tx, s.transmit = { s with rep := u, link := { s.link with responses := q, tx := tx } } := by
  unfold State.transmit
  split
  · exact ⟨_, _, _, rfl⟩
  · exact ⟨_, _, _, rfl⟩
  · obtain ⟨u, tx, h⟩ := startReport_only s
    exact ⟨u, _, tx, h⟩

/-- The choice behind an appended response may also count a free choice (R161; log entry 2). -/
theorem transmitAfterResponse_only (s : State) :
    ∃ u q tx n, s.transmitAfterResponse
      = { s with rep := u, choices := n, link := { s.link with responses := q, tx := tx } } := by
  unfold State.transmitAfterResponse
  split
  · dsimp only
    split
    · obtain ⟨u, tx, h⟩ := startReport_only { s with choices := s.choices + 1 }
      exact ⟨u, _, tx, _, h⟩
    · obtain ⟨u, q, tx, h⟩ := transmit_only { s with choices := s.choices + 1 }
      exact ⟨u, q, tx, _, h⟩
  · obtain ⟨u, q, tx, h⟩ := transmit_only s
    exact ⟨u, q, tx, _, h⟩

/-- A response changes the report unit, the response queue, the transmitter and the count of free choices
(R160, R161). -/
theorem reply_only (s : State) (kind tag : Byte) (p : List Byte) (b : Bool) :
    ∃ u q tx n, s.reply kind tag p b
      = { s with rep := u, choices := n, link := { s.link with responses := q, tx := tx } } := by
  obtain ⟨u, q, tx, n, h⟩ := transmitAfterResponse_only
    { s with link := { s.link with responses := s.link.responses ++ [(⟨kind, tag, p, b⟩ : Response)] } }
  exact ⟨u, q, tx, n, h⟩

/-- While a frame is on the wire the transmitter makes no choice (R161). -/
theorem transmit_sending {s : State} {bytes : List Byte} {b : Bool} (h : s.link.tx = .sending bytes b) :
    s.transmit = s := by
  simp [State.transmit, h]

/-! ## SAFE entry -/

/-- A loop's entry to HELD changes the report unit and the loop table (R17, R24). -/
theorem enterHeld_only (s : State) (i : LoopId) (f : LoopEntry → LoopEntry) :
    ∃ u ls, s.enterHeld i f = { s with rep := u, loops := ls } := by
  unfold State.enterHeld
  dsimp only
  split
  · obtain ⟨u, ls, h⟩ := safeOutput_only (s.modLoop i f) i
    exact ⟨u, ls, h⟩
  · exact ⟨_, _, rfl⟩

/-- SAFE entry's part on one loop changes the report unit and the loop table (R25). -/
theorem holdForSafe_only (s : State) (i : LoopId) : ∃ u ls, s.holdForSafe i = { s with rep := u, loops := ls } := by
  unfold State.holdForSafe
  split
  · exact enterHeld_only s i _
  · exact ⟨_, _, rfl⟩
  · exact ⟨_, _, rfl⟩

/-- What is done loop by loop, changing the report unit and the loop table alone, changes no more than those. -/
theorem eachLoop_only (f : LoopId → State → State)
    (hf : ∀ i t, ∃ u ls, f i t = { t with rep := u, loops := ls }) (s : State) :
    ∃ u ls, s.eachLoop f = { s with rep := u, loops := ls } := by
  have h : ∀ (l : List LoopId) (t : State),
      ∃ u ls, l.foldl (fun t i => f i t) t = { t with rep := u, loops := ls } := by
    intro l
    induction l with
    | nil => intro t; exact ⟨_, _, rfl⟩
    | cons i rest ih =>
      intro t
      obtain ⟨u, ls, h1⟩ := hf i t
      obtain ⟨u', ls', h2⟩ := ih (f i t)
      exact ⟨u', ls', by rw [List.foldl_cons, h2, h1]⟩
  exact h _ s

/-- A claim to enter SAFE changes the mode controller, the loop table, the report unit and the computation unit
(R183, R25, R115). -/
theorem claimSafe_only (s : State) (c : SafeCause) :
    ∃ k ls u cu, s.claimSafe c = { s with ctl := k, loops := ls, rep := u, cu := cu } := by
  unfold State.claimSafe
  split
  · exact ⟨_, _, _, _, rfl⟩
  · dsimp only
    obtain ⟨u, ls, h⟩ := eachLoop_only (fun i t => t.holdForSafe i) (fun i t => holdForSafe_only t i)
      (State.offerEngine { s with ctl := { s.ctl with mode := .safe, safeCause := c, safeN := .low } }
        (.safeEntered c))
    rw [h]
    obtain ⟨cu, ls', h'⟩ := settleChoice_only
      { s with
        ctl := { s.ctl with mode := .safe, safeCause := c, safeN := .low }
        rep := u, loops := ls, cu := s.cu.flush }
    exact ⟨_, _, _, _, h'⟩

/-- A change of the LEC changes the link unit's count and state, and what a change of the state hands on
(R163 to R165, R148). -/
theorem changeLec_only (s : State) (lec : BitVec 8) :
    ∃ k ls u cu, s.changeLec lec = { s with
      ctl := k, loops := ls, rep := u, cu := cu
      link := { s.link with lec := lec, state := judgeLink s.link.state lec } } := by
  unfold State.changeLec
  dsimp only
  split
  · exact ⟨_, _, _, _, rfl⟩
  · exact ⟨_, _, _, _, rfl⟩
  · exact ⟨_, _, _, _, rfl⟩
  · obtain ⟨k, ls, u, cu, h⟩ := claimSafe_only
      { s with
        link := { s.link with lec := lec, state := judgeLink s.link.state lec }
        rep := { s.rep with retryTimer := none } } .linkMute
    exact ⟨k, ls, u, cu, h⟩
  · obtain ⟨k, ls, u, cu, h⟩ := claimSafe_only
      { s with
        link := { s.link with lec := lec, state := judgeLink s.link.state lec }
        rep := { s.rep with retryTimer := none } } .linkMute
    exact ⟨k, ls, u, cu, h⟩
  · exact ⟨_, _, _, _, rfl⟩

end Sys2Proof.Machine
end

