-- ==== Sys2Proof/Laws/Requests.lean ====
section
/-! SUPPORT. What a request comes to: taken at once, waiting in a slot, or an overrun (R159, R171). -/

namespace Sys2Proof.Machine

/-- Every request row brings its frame to the slots and the dispatcher. -/
theorem exec_request {c : Instr} {fr : Frame} (h : requestFrame c = some fr) (s : State) :
    exec c s = s.whenRunning fun t => t.submit fr.kind fr.tag fr.payload := by
  cases c <;> simp only [requestFrame, Option.some.injEq, reduceCtorEq] at h <;> subst h <;> rfl

/-- The appended response and the transmitter's choice behind it are `reply`. -/
theorem respond_transmit (s : State) (fr : Frame) (p : List Byte) :
    (s.respond fr p).transmitAfterResponse = s.reply (responseKind fr.kind) fr.tag p (answersReset fr) := rfl

/-- With no slot filled the dispatcher takes nothing. -/
@[simp] theorem dispatch_nil {s : State} (h : s.link.slots = []) : s.dispatch = s := by
  simp [State.dispatch, h, State.dispatchUpTo]

/-- A dispatcher that is not free takes nothing. -/
theorem dispatch_busy {s : State} (h : s.dispatcherFree = false) : s.dispatch = s := by
  unfold State.dispatch
  cases hs : s.link.slots with
  | nil => rfl
  | cons f rest => simp [State.dispatchUpTo, hs, h]

/-- A request that meets an accepting state is judged, carried out and answered in the event that brings it. -/
theorem submit_accepting {s : State} (h : s.Accepting) (kind tag : Byte) (p : List Byte) :
    s.submit kind tag p =
      (judge ⟨kind, tag, p⟩ s).1.reply (responseKind kind) tag (judge ⟨kind, tag, p⟩ s).2
        (answersReset ⟨kind, tag, p⟩) := by
  obtain ⟨-, hs, hr, hp⟩ := h
  have hl : { s with link := { s.link with slots := [] } } = s := by rw [← hs]
  have hplace : s.placeInSlot ⟨kind, tag, p⟩
      = { s with link := { s.link with slots := [⟨kind, tag, p⟩] } } := by
    simp [State.placeInSlot, hs, Config.inboundSlots]
  simp only [State.submit, hplace, State.dispatch, List.length_cons, List.length_nil, State.dispatchUpTo]
  have hfree : State.dispatcherFree { s with link := { s.link with slots := [⟨kind, tag, p⟩] } } = true := by
    simp [State.dispatcherFree, Config.responseQueue, hr, hp]
  simp only [hfree, if_true, hl]
  rfl

/-- A request row in an accepting state. -/
theorem exec_accepting {c : Instr} {fr : Frame} (hc : requestFrame c = some fr) {s : State} (h : s.Accepting) :
    exec c s = .next ((judge fr s).1.reply (responseKind fr.kind) fr.tag (judge fr s).2 (answersReset fr)) := by
  rw [exec_request hc, State.whenRunning, if_pos h.1, submit_accepting h]

/-- A request row in a state whose dispatcher cannot take it. -/
theorem exec_waiting {c : Instr} {fr : Frame} (hc : requestFrame c = some fr) {s : State} (h : s.Waiting) :
    exec c s = .next { s with link := { s.link with slots := s.link.slots ++ [fr] } } := by
  obtain ⟨hp, hs, hb⟩ := h
  rw [exec_request hc, State.whenRunning, if_pos hp]
  simp only [State.submit, State.placeInSlot, Config.inboundSlots, hs, if_true]
  rw [dispatch_busy]
  rcases hb with hb | hb <;> simp [State.dispatcherFree, Config.responseQueue, hb, Nat.not_lt.mpr]

/-! ## Each request row in an accepting state -/

theorem exec_identify {s : State} (h : s.Accepting) (tag : Byte) (p : List Byte) :
    exec (.identify tag p) s = .next ((reqIdentify p s).1.reply 0x81 tag (reqIdentify p s).2) := by
  rw [exec_accepting (fr := ⟨0x01, tag, p⟩) rfl h]
  have hj : judge ⟨0x01, tag, p⟩ s = reqIdentify p s := by simp [judge, carryOut]
  rw [hj]
  simp [responseKind, answersReset]

theorem exec_status {s : State} (h : s.Accepting) (tag : Byte) (p : List Byte) :
    exec (.status tag p) s = .next ((reqStatus p s).1.reply 0x82 tag (reqStatus p s).2) := by
  rw [exec_accepting (fr := ⟨0x02, tag, p⟩) rfl h]
  have hj : judge ⟨0x02, tag, p⟩ s = reqStatus p s := by simp [judge, carryOut]
  rw [hj]
  simp [responseKind, answersReset]

theorem exec_configure {s : State} (h : s.Accepting) (tag : Byte) (p : List Byte) :
    exec (.configure tag p) s = .next ((reqConfigure p s).1.reply 0x83 tag (reqConfigure p s).2) := by
  rw [exec_accepting (fr := ⟨0x03, tag, p⟩) rfl h]
  have hj : judge ⟨0x03, tag, p⟩ s = reqConfigure p s := by simp [judge, carryOut]
  rw [hj]
  simp [responseKind, answersReset]

theorem exec_ping {s : State} (h : s.Accepting) (tag : Byte) (p : List Byte) :
    exec (.ping tag p) s = .next ((reqPing p s).1.reply 0x84 tag (reqPing p s).2) := by
  rw [exec_accepting (fr := ⟨0x04, tag, p⟩) rfl h]
  have hj : judge ⟨0x04, tag, p⟩ s = reqPing p s := by simp [judge, carryOut]
  rw [hj]
  simp [responseKind, answersReset]

theorem exec_enterSafe {s : State} (h : s.Accepting) (tag : Byte) (p : List Byte) :
    exec (.enterSafe tag p) s = .next ((reqEnterSafe p s).1.reply 0x85 tag (reqEnterSafe p s).2) := by
  rw [exec_accepting (fr := ⟨0x05, tag, p⟩) rfl h]
  have hj : judge ⟨0x05, tag, p⟩ s = reqEnterSafe p s := by simp [judge, carryOut]
  rw [hj]
  simp [responseKind, answersReset]

theorem exec_resume {s : State} (h : s.Accepting) (tag : Byte) (p : List Byte) :
    exec (.resume tag p) s = .next ((reqResume p s).1.reply 0x86 tag (reqResume p s).2) := by
  rw [exec_accepting (fr := ⟨0x06, tag, p⟩) rfl h]
  have hj : judge ⟨0x06, tag, p⟩ s = reqResume p s := by simp [judge, carryOut]
  rw [hj]
  simp [responseKind, answersReset]

theorem exec_reset {s : State} (h : s.Accepting) (tag : Byte) (p : List Byte) :
    exec (.reset tag p) s = .next ((reqReset p s).1.reply 0x87 tag (reqReset p s).2 p.isEmpty) := by
  rw [exec_accepting (fr := ⟨0x07, tag, p⟩) rfl h]
  have hj : judge ⟨0x07, tag, p⟩ s = reqReset p s := by simp [judge, carryOut]
  rw [hj]
  simp [responseKind, answersReset]

theorem exec_clearCause {s : State} (h : s.Accepting) (tag : Byte) (p : List Byte) :
    exec (.clearCause tag p) s = .next ((reqClearCause p s).1.reply 0x88 tag (reqClearCause p s).2) := by
  rw [exec_accepting (fr := ⟨0x08, tag, p⟩) rfl h]
  have hj : judge ⟨0x08, tag, p⟩ s = reqClearCause p s := by simp [judge, carryOut]
  rw [hj]
  simp [responseKind, answersReset]

theorem exec_defineLoop {s : State} (h : s.Accepting) (tag : Byte) (p : List Byte) :
    exec (.defineLoop tag p) s = .next ((reqDefineLoop p s).1.reply 0x90 tag (reqDefineLoop p s).2) := by
  rw [exec_accepting (fr := ⟨0x10, tag, p⟩) rfl h]
  have hj : judge ⟨0x10, tag, p⟩ s = reqDefineLoop p s := by simp [judge, carryOut]
  rw [hj]
  simp [responseKind, answersReset]

theorem exec_armLoop {s : State} (h : s.Accepting) (tag : Byte) (p : List Byte) :
    exec (.armLoop tag p) s = .next ((reqArmLoop p s).1.reply 0x91 tag (reqArmLoop p s).2) := by
  rw [exec_accepting (fr := ⟨0x11, tag, p⟩) rfl h]
  have hj : judge ⟨0x11, tag, p⟩ s = reqArmLoop p s := by simp [judge, carryOut]
  rw [hj]
  simp [responseKind, answersReset]

theorem exec_holdLoop {s : State} (h : s.Accepting) (tag : Byte) (p : List Byte) :
    exec (.holdLoop tag p) s = .next ((reqHoldLoop p s).1.reply 0x92 tag (reqHoldLoop p s).2) := by
  rw [exec_accepting (fr := ⟨0x12, tag, p⟩) rfl h]
  have hj : judge ⟨0x12, tag, p⟩ s = reqHoldLoop p s := by simp [judge, carryOut]
  rw [hj]
  simp [responseKind, answersReset]

theorem exec_unholdLoop {s : State} (h : s.Accepting) (tag : Byte) (p : List Byte) :
    exec (.unholdLoop tag p) s = .next ((reqUnholdLoop p s).1.reply 0x93 tag (reqUnholdLoop p s).2) := by
  rw [exec_accepting (fr := ⟨0x13, tag, p⟩) rfl h]
  have hj : judge ⟨0x13, tag, p⟩ s = reqUnholdLoop p s := by simp [judge, carryOut]
  rw [hj]
  simp [responseKind, answersReset]

theorem exec_clearLoop {s : State} (h : s.Accepting) (tag : Byte) (p : List Byte) :
    exec (.clearLoop tag p) s = .next ((reqClearLoop p s).1.reply 0x94 tag (reqClearLoop p s).2) := by
  rw [exec_accepting (fr := ⟨0x14, tag, p⟩) rfl h]
  have hj : judge ⟨0x14, tag, p⟩ s = reqClearLoop p s := by simp [judge, carryOut]
  rw [hj]
  simp [responseKind, answersReset]

theorem exec_readLoop {s : State} (h : s.Accepting) (tag : Byte) (p : List Byte) :
    exec (.readLoop tag p) s = .next ((reqReadLoop p s).1.reply 0x95 tag (reqReadLoop p s).2) := by
  rw [exec_accepting (fr := ⟨0x15, tag, p⟩) rfl h]
  have hj : judge ⟨0x15, tag, p⟩ s = reqReadLoop p s := by simp [judge, carryOut]
  rw [hj]
  simp [responseKind, answersReset]

theorem exec_presetLoop {s : State} (h : s.Accepting) (tag : Byte) (p : List Byte) :
    exec (.presetLoop tag p) s = .next ((reqPresetLoop p s).1.reply 0x96 tag (reqPresetLoop p s).2) := by
  rw [exec_accepting (fr := ⟨0x16, tag, p⟩) rfl h]
  have hj : judge ⟨0x16, tag, p⟩ s = reqPresetLoop p s := by simp [judge, carryOut]
  rw [hj]
  simp [responseKind, answersReset]

theorem exec_loadCoef {s : State} (h : s.Accepting) (tag : Byte) (p : List Byte) :
    exec (.loadCoef tag p) s = .next ((reqLoadCoef p s).1.reply 0x98 tag (reqLoadCoef p s).2) := by
  rw [exec_accepting (fr := ⟨0x18, tag, p⟩) rfl h]
  have hj : judge ⟨0x18, tag, p⟩ s = reqLoadCoef p s := by simp [judge, carryOut]
  rw [hj]
  simp [responseKind, answersReset]

theorem exec_readCoef {s : State} (h : s.Accepting) (tag : Byte) (p : List Byte) :
    exec (.readCoef tag p) s = .next ((reqReadCoef p s).1.reply 0x9A tag (reqReadCoef p s).2) := by
  rw [exec_accepting (fr := ⟨0x1A, tag, p⟩) rfl h]
  have hj : judge ⟨0x1A, tag, p⟩ s = reqReadCoef p s := by simp [judge, carryOut]
  rw [hj]
  simp [responseKind, answersReset]

theorem exec_writeSamples {s : State} (h : s.Accepting) (tag : Byte) (p : List Byte) :
    exec (.writeSamples tag p) s = .next ((reqWriteSamples p s).1.reply 0xA0 tag (reqWriteSamples p s).2) := by
  rw [exec_accepting (fr := ⟨0x20, tag, p⟩) rfl h]
  have hj : judge ⟨0x20, tag, p⟩ s = reqWriteSamples p s := by simp [judge, carryOut]
  rw [hj]
  simp [responseKind, answersReset]

theorem exec_readSamples {s : State} (h : s.Accepting) (tag : Byte) (p : List Byte) :
    exec (.readSamples tag p) s = .next ((reqReadSamples p s).1.reply 0xA1 tag (reqReadSamples p s).2) := by
  rw [exec_accepting (fr := ⟨0x21, tag, p⟩) rfl h]
  have hj : judge ⟨0x21, tag, p⟩ s = reqReadSamples p s := by simp [judge, carryOut]
  rw [hj]
  simp [responseKind, answersReset]

theorem exec_readAlarms {s : State} (h : s.Accepting) (tag : Byte) (p : List Byte) :
    exec (.readAlarms tag p) s = .next ((reqReadAlarms p s).1.reply 0xA8 tag (reqReadAlarms p s).2) := by
  rw [exec_accepting (fr := ⟨0x28, tag, p⟩) rfl h]
  have hj : judge ⟨0x28, tag, p⟩ s = reqReadAlarms p s := by simp [judge, carryOut]
  rw [hj]
  simp [responseKind, answersReset]

theorem exec_clearAlarms {s : State} (h : s.Accepting) (tag : Byte) (p : List Byte) :
    exec (.clearAlarms tag p) s = .next ((reqClearAlarms p s).1.reply 0xA9 tag (reqClearAlarms p s).2) := by
  rw [exec_accepting (fr := ⟨0x29, tag, p⟩) rfl h]
  have hj : judge ⟨0x29, tag, p⟩ s = reqClearAlarms p s := by simp [judge, carryOut]
  rw [hj]
  simp [responseKind, answersReset]

theorem exec_maskAlarms {s : State} (h : s.Accepting) (tag : Byte) (p : List Byte) :
    exec (.maskAlarms tag p) s = .next ((reqMaskAlarms p s).1.reply 0xAA tag (reqMaskAlarms p s).2) := by
  rw [exec_accepting (fr := ⟨0x2A, tag, p⟩) rfl h]
  have hj : judge ⟨0x2A, tag, p⟩ s = reqMaskAlarms p s := by simp [judge, carryOut]
  rw [hj]
  simp [responseKind, answersReset]

theorem exec_commitCoefApply {s : State} (h : s.Accepting) (tag : Byte) (m : List Byte) :
    exec (.commitCoefApply tag m) s = .next ((reqCommitCoef (m ++ [0x00]) s).1.reply 0x99 tag (reqCommitCoef (m ++ [0x00]) s).2) := by
  rw [exec_accepting (fr := ⟨0x19, tag, m ++ [0x00]⟩) rfl h]
  have hj : judge ⟨0x19, tag, m ++ [0x00]⟩ s = reqCommitCoef (m ++ [0x00]) s := by simp [judge, carryOut]
  rw [hj]
  simp [responseKind, answersReset]

theorem exec_commitCoefDiscard {s : State} (h : s.Accepting) (tag : Byte) (m : List Byte) :
    exec (.commitCoefDiscard tag m) s = .next ((reqCommitCoef (m ++ [0x01]) s).1.reply 0x99 tag (reqCommitCoef (m ++ [0x01]) s).2) := by
  rw [exec_accepting (fr := ⟨0x19, tag, m ++ [0x01]⟩) rfl h]
  have hj : judge ⟨0x19, tag, m ++ [0x01]⟩ s = reqCommitCoef (m ++ [0x01]) s := by simp [judge, carryOut]
  rw [hj]
  simp [responseKind, answersReset]

end Sys2Proof.Machine
end

