-- ==== Sys2Proof/Laws/Trig.lean ====
section
/-! SUPPORT. What the integer arithmetic of Machine/Trig.lean computes, against the real sine, cosine, square root
and angle: `turned_close` and `withinTwo_close` for ROTATE (R41), `magnitudeExact_close`, `firstQuarter_spec` and
`angleSearch_close` for ATAN (R42). -/

namespace Sys2Proof.Laws.Trig
open Sys2Proof.Machine

/-- The series `nestedSeries` computes, without its roundings. -/
noncomputable def series (y : ℝ) : List Int → ℝ
  | [] => 1
  | d :: rest => 1 - y * series y rest / d

/-- An integer quotient lies within 1 of the real one. -/
theorem floor_div_close (a b : Int) (hb : 0 < b) : |((a / b : Int) : ℝ) - (a : ℝ) / b| ≤ 1 := by
  have hb' : (0 : ℝ) < b := by exact_mod_cast hb
  have h1 : (a / b) * b ≤ a := Int.ediv_mul_le a (by omega)
  have h2 : a < (a / b + 1) * b := Int.lt_ediv_add_one_mul_self a hb
  have h1' : ((a / b : Int) : ℝ) * b ≤ a := by exact_mod_cast h1
  have h2' : (a : ℝ) < (((a / b : Int) : ℝ) + 1) * b := by exact_mod_cast h2
  rw [abs_le]
  constructor
  · have : (a : ℝ) / b < ((a / b : Int) : ℝ) + 1 := by rw [div_lt_iff₀ hb']; exact h2'
    linarith
  · have : ((a / b : Int) : ℝ) ≤ (a : ℝ) / b := by rw [le_div_iff₀ hb']; exact h1'
    linarith

theorem trigOne_real : (trigOne : ℝ) = 2 ^ 80 := by norm_num [trigOne]

theorem series_abs_le (y : ℝ) (h0 : 0 ≤ y) (h1 : y ≤ 1) :
    ∀ l : List Int, (∀ d ∈ l, 2 ≤ d) → |series y l| ≤ 2
  | [], _ => by norm_num [series]
  | d :: rest, h => by
    have hd : (2 : ℝ) ≤ d := by exact_mod_cast h d (by simp)
    have ih := series_abs_le y h0 h1 rest (fun e he => h e (by simp [he]))
    have : |y * series y rest / d| ≤ 1 := by
      rw [abs_div, abs_mul, abs_of_nonneg h0, abs_of_pos (by linarith : (0:ℝ) < d), div_le_one (by linarith)]
      nlinarith [abs_nonneg (series y rest)]
    have h3 := abs_sub (1 : ℝ) (y * series y rest / d)
    simp only [series]
    calc _ ≤ |(1:ℝ)| + |y * series y rest / d| := abs_sub _ _
      _ ≤ 2 := by norm_num; linarith

theorem series_lipschitz (y y' : ℝ) (h0 : 0 ≤ y) (h1 : y ≤ 1) (h0' : 0 ≤ y') (h1' : y' ≤ 1) :
    ∀ l : List Int, (∀ d ∈ l, 2 ≤ d) → |series y l - series y' l| ≤ 2 * |y - y'|
  | [], _ => by simp [series]
  | d :: rest, h => by
    have hd : (2 : ℝ) ≤ d := by exact_mod_cast h d (by simp)
    have hr := fun e he => h e (List.mem_cons_of_mem d he)
    have ih := series_lipschitz y y' h0 h1 h0' h1' rest hr
    have hb := series_abs_le y h0 h1 rest hr
    have e : series y (d :: rest) - series y' (d :: rest)
        = -((y - y') * series y rest + y' * (series y rest - series y' rest)) / d := by
      simp only [series]; ring
    rw [e, abs_div, abs_neg, abs_of_pos (by linarith : (0:ℝ) < d), div_le_iff₀ (by linarith)]
    calc _ ≤ |(y - y') * series y rest| + |y' * (series y rest - series y' rest)| := abs_add_le _ _
      _ = |y - y'| * |series y rest| + y' * |series y rest - series y' rest| := by
        rw [abs_mul, abs_mul, abs_of_nonneg h0']
      _ ≤ |y - y'| * 2 + 1 * (2 * |y - y'|) := by
        gcongr
      _ ≤ 2 * |y - y'| * d := by nlinarith [abs_nonneg (y - y')]

/-- `nestedSeries` is its series to within four units. -/
theorem nestedSeries_close (z : Int) (h0 : 0 ≤ z) (h1 : z ≤ trigOne) :
    ∀ l : List Int, (∀ d ∈ l, 2 ≤ d) → |(nestedSeries z l : ℝ) / 2 ^ 80 - series (z / 2 ^ 80) l| ≤ 4 / 2 ^ 80
  | [], _ => by norm_num [nestedSeries, series, trigOne]
  | d :: rest, h => by
    have hdi : 2 ≤ d := h d (by simp)
    have hd : (2 : ℝ) ≤ d := by exact_mod_cast hdi
    have ih := nestedSeries_close z h0 h1 rest (fun e he => h e (by simp [he]))
    have hz0 : (0 : ℝ) ≤ z := by exact_mod_cast h0
    have hz1 : (z : ℝ) ≤ 2 ^ 80 := by rw [← trigOne_real]; exact_mod_cast h1
    set N : Int := nestedSeries z rest with hN
    have e1 := floor_div_close (z * N) trigOne (by norm_num [trigOne])
    have e2 := floor_div_close (z * N / trigOne) d (by omega)
    rw [trigOne_real] at e1
    set q : Int := z * N / trigOne with hq
    have hns : nestedSeries z (d :: rest) = trigOne - q / d := by simp [nestedSeries, hq, hN]
    rw [hns]
    push_cast at e1 ⊢
    rw [trigOne_real]
    simp only [series]
    set S := series ((z : ℝ) / 2 ^ 80) rest with hS
    have key : ((2 ^ 80 - ((q / d : Int) : ℝ)) / 2 ^ 80 - (1 - z / 2 ^ 80 * S / d))
        = -((((q / d : Int) : ℝ) - q / d) + (q - z * N / 2 ^ 80) / d) / 2 ^ 80
          - z / 2 ^ 80 * (N / 2 ^ 80 - S) / d := by
      field_simp; ring
    rw [key]
    have b1 : |((q / d : Int) : ℝ) - q / d| ≤ 1 := e2
    have b2 : |((q : ℝ) - z * N / 2 ^ 80) / d| ≤ 1 / 2 := by
      rw [abs_div, abs_of_pos (by linarith : (0:ℝ) < d), div_le_iff₀ (by linarith)]
      linarith
    have b3 : |(z : ℝ) / 2 ^ 80 * (N / 2 ^ 80 - S) / d| ≤ 2 / 2 ^ 80 := by
      have hzz : (z : ℝ) / 2 ^ 80 ≤ 1 := by rw [div_le_one (by positivity)]; exact hz1
      rw [abs_div, abs_mul, abs_of_nonneg (by positivity : (0:ℝ) ≤ (z : ℝ) / 2 ^ 80),
        abs_of_pos (by linarith : (0:ℝ) < d), div_le_iff₀ (by linarith)]
      calc _ ≤ 1 * (4 / 2 ^ 80) := by gcongr
        _ ≤ 2 / 2 ^ 80 * (d : ℝ) := by
          have : (0:ℝ) < 1 / 2 ^ 80 := by positivity
          linear_combination (2 / 2 ^ 80 : ℝ) * hd
    calc _ ≤ |(-((((q / d : Int) : ℝ) - q / d) + (q - z * N / 2 ^ 80) / d) / 2 ^ 80)|
          + |(z : ℝ) / 2 ^ 80 * (N / 2 ^ 80 - S) / d| := abs_sub _ _
      _ ≤ (1 + 1 / 2) / 2 ^ 80 + 2 / 2 ^ 80 := by
        gcongr
        rw [abs_div, abs_neg, abs_of_pos (by positivity : (0:ℝ) < 2 ^ 80)]
        gcongr
        exact (abs_add_le _ _).trans (add_le_add b1 b2)
      _ ≤ 4 / 2 ^ 80 := by norm_num

/-- The steps of the sine's series. -/
def sinSteps : List Int := [6, 20, 42, 72, 110, 156, 210, 272, 342, 420, 506, 600]

/-- The steps of the cosine's series. -/
def cosSteps : List Int := [2, 12, 30, 56, 90, 132, 182, 240, 306, 380, 462, 552, 650]

theorem exp_sum_re (v : ℝ) :
    (∑ m ∈ Finset.range 27, ((v : ℂ) * Complex.I) ^ m / (m.factorial : ℂ))
      = ((series (v ^ 2) cosSteps : ℝ) : ℂ) + ((v * series (v ^ 2) sinSteps : ℝ) : ℂ) * Complex.I := by
  have hI : Complex.I ^ 2 = -1 := Complex.I_sq
  have h4 : ∀ m : ℕ, ((v : ℂ) * Complex.I) ^ (m + 2) = -(v : ℂ) ^ 2 * ((v : ℂ) * Complex.I) ^ m := by
    intro m; rw [pow_add, mul_pow, mul_pow, hI]; ring
  simp only [Finset.sum_range_succ, Finset.sum_range_zero, h4, pow_zero, zero_add, series, cosSteps, sinSteps,
    Nat.factorial, pow_one]
  push_cast
  ring

/-- Both series are the Taylor polynomials of cosine and sine. -/
theorem taylor_close (v : ℝ) (h0 : 0 ≤ v) (h1 : v ≤ 1) :
    |Real.cos v - series (v ^ 2) cosSteps| ≤ 1 / 2 ^ 90
      ∧ |Real.sin v - v * series (v ^ 2) sinSteps| ≤ 1 / 2 ^ 90 := by
  have hn : ‖((v : ℂ) * Complex.I)‖ ≤ 1 := by simp [abs_of_nonneg h0, h1]
  have hb := Complex.exp_bound hn (n := 27) (by norm_num)
  rw [exp_sum_re, Complex.exp_mul_I, ← Complex.ofReal_cos, ← Complex.ofReal_sin] at hb
  have hs : ‖((v : ℂ) * Complex.I)‖ ^ 27 * ((27 : ℕ).succ * ((27 : ℕ).factorial * (27 : ℕ) : ℝ)⁻¹) ≤ 1 / 2 ^ 90 := by
    have : ‖((v : ℂ) * Complex.I)‖ ^ 27 ≤ 1 := pow_le_one₀ (norm_nonneg _) hn
    calc _ ≤ 1 * ((27 : ℕ).succ * ((27 : ℕ).factorial * (27 : ℕ) : ℝ)⁻¹) := by gcongr
      _ ≤ 1 / 2 ^ 90 := by norm_num [Nat.factorial]
  have hb' := hb.trans (by simpa using hs)
  have e : ((Real.cos v : ℂ) + (Real.sin v : ℂ) * Complex.I
      - (((series (v ^ 2) cosSteps : ℝ) : ℂ) + ((v * series (v ^ 2) sinSteps : ℝ) : ℂ) * Complex.I))
      = ((Real.cos v - series (v ^ 2) cosSteps : ℝ) : ℂ)
        + ((Real.sin v - v * series (v ^ 2) sinSteps : ℝ) : ℂ) * Complex.I := by
    push_cast; ring
  rw [e, ← one_div] at hb'
  have gen : ∀ p q : ℝ, |p| ≤ ‖(p : ℂ) + (q : ℂ) * Complex.I‖ ∧ |q| ≤ ‖(p : ℂ) + (q : ℂ) * Complex.I‖ := by
    intro p q
    have h1 := Complex.abs_re_le_norm ((p : ℂ) + (q : ℂ) * Complex.I)
    have h2 := Complex.abs_im_le_norm ((p : ℂ) + (q : ℂ) * Complex.I)
    simp at h1 h2
    exact ⟨h1, h2⟩
  exact ⟨(gen _ _).1.trans hb', (gen _ _).2.trans hb'⟩

/-- The square of a scaled value, scaled again, as both series read it. -/
theorem square_close (x : Int) (h0 : 0 ≤ x) (h1 : x ≤ trigOne) :
    0 ≤ x * x / trigOne ∧ x * x / trigOne ≤ trigOne
      ∧ |((x * x / trigOne : Int) : ℝ) / 2 ^ 80 - ((x : ℝ) / 2 ^ 80) ^ 2| ≤ 1 / 2 ^ 80 := by
  have hU : (0 : Int) < trigOne := by norm_num [trigOne]
  refine ⟨Int.ediv_nonneg (by positivity) hU.le, ?_, ?_⟩
  · exact (Int.ediv_le_ediv hU (mul_le_mul h1 h1 h0 hU.le)).trans (by rw [Int.mul_ediv_cancel _ hU.ne'])
  · have := floor_div_close (x * x) trigOne hU
    rw [trigOne_real] at this
    have e : ((x * x / trigOne : Int) : ℝ) / 2 ^ 80 - ((x : ℝ) / 2 ^ 80) ^ 2
        = (((x * x / trigOne : Int) : ℝ) - ((x * x : Int) : ℝ) / 2 ^ 80) / 2 ^ 80 := by
      push_cast; field_simp
    rw [e, abs_div, abs_of_pos (by positivity : (0 : ℝ) < 2 ^ 80)]
    gcongr

theorem nested_at (x : Int) (h0 : 0 ≤ x) (h1 : x ≤ trigOne) (l : List Int) (hl : ∀ d ∈ l, 2 ≤ d) :
    |(nestedSeries (x * x / trigOne) l : ℝ) / 2 ^ 80 - series (((x : ℝ) / 2 ^ 80) ^ 2) l| ≤ 6 / 2 ^ 80 := by
  obtain ⟨hz0, hz1, hz⟩ := square_close x h0 h1
  have a := nestedSeries_close _ hz0 hz1 l hl
  have hz0' : (0 : ℝ) ≤ ((x * x / trigOne : Int) : ℝ) := by exact_mod_cast hz0
  have hz1' : ((x * x / trigOne : Int) : ℝ) ≤ 2 ^ 80 := by rw [← trigOne_real]; exact_mod_cast hz1
  have hx0 : (0 : ℝ) ≤ (x : ℝ) := by exact_mod_cast h0
  have hx1 : (x : ℝ) ≤ 2 ^ 80 := by rw [← trigOne_real]; exact_mod_cast h1
  have b := series_lipschitz (((x * x / trigOne : Int) : ℝ) / 2 ^ 80) (((x : ℝ) / 2 ^ 80) ^ 2)
    (by positivity) ((div_le_one (by positivity)).2 hz1') (by positivity)
    (pow_le_one₀ (by positivity) ((div_le_one (by positivity)).2 hx1)) l hl
  have := abs_sub_le ((nestedSeries (x * x / trigOne) l : ℝ) / 2 ^ 80)
    (series (((x * x / trigOne : Int) : ℝ) / 2 ^ 80) l) (series (((x : ℝ) / 2 ^ 80) ^ 2) l)
  linarith

/-- The cosine of a small angle is right to 2^-77. -/
theorem cosSmall_close (x : Int) (h0 : 0 ≤ x) (h1 : x ≤ trigOne) :
    |(cosSmall x : ℝ) / 2 ^ 80 - Real.cos ((x : ℝ) / 2 ^ 80)| ≤ 1 / 2 ^ 77 := by
  have hx0 : (0 : ℝ) ≤ (x : ℝ) := by exact_mod_cast h0
  have hx1 : (x : ℝ) ≤ 2 ^ 80 := by rw [← trigOne_real]; exact_mod_cast h1
  have a := nested_at x h0 h1 cosSteps (by decide)
  have t := (taylor_close ((x : ℝ) / 2 ^ 80) (by positivity) ((div_le_one (by positivity)).2 hx1)).1
  have e : cosSmall x = nestedSeries (x * x / trigOne) cosSteps := rfl
  rw [e]
  have := abs_sub_le ((nestedSeries (x * x / trigOne) cosSteps : ℝ) / 2 ^ 80)
    (series (((x : ℝ) / 2 ^ 80) ^ 2) cosSteps) (Real.cos ((x : ℝ) / 2 ^ 80))
  rw [abs_sub_comm] at t
  norm_num at a t this ⊢
  linarith

/-- The sine of a small angle is right to 2^-76. -/
theorem sinSmall_close (x : Int) (h0 : 0 ≤ x) (h1 : x ≤ trigOne) :
    |(sinSmall x : ℝ) / 2 ^ 80 - Real.sin ((x : ℝ) / 2 ^ 80)| ≤ 1 / 2 ^ 76 := by
  have hx0 : (0 : ℝ) ≤ (x : ℝ) := by exact_mod_cast h0
  have hx1 : (x : ℝ) ≤ 2 ^ 80 := by rw [← trigOne_real]; exact_mod_cast h1
  have a := nested_at x h0 h1 sinSteps (by decide)
  have t := (taylor_close ((x : ℝ) / 2 ^ 80) (by positivity) ((div_le_one (by positivity)).2 hx1)).2
  set N : Int := nestedSeries (x * x / trigOne) sinSteps with hN
  have e : sinSmall x = x * N / trigOne := rfl
  have f := floor_div_close (x * N) trigOne (by norm_num [trigOne])
  rw [trigOne_real] at f
  rw [e]
  set S := series (((x : ℝ) / 2 ^ 80) ^ 2) sinSteps with hS
  have f' : |((x * N / trigOne : Int) : ℝ) / 2 ^ 80 - (x : ℝ) / 2 ^ 80 * (N / 2 ^ 80)| ≤ 1 / 2 ^ 80 := by
    have e' : ((x * N / trigOne : Int) : ℝ) / 2 ^ 80 - (x : ℝ) / 2 ^ 80 * (N / 2 ^ 80)
        = (((x * N / trigOne : Int) : ℝ) - ((x * N : Int) : ℝ) / 2 ^ 80) / 2 ^ 80 := by
      push_cast; field_simp
    rw [e', abs_div, abs_of_pos (by positivity : (0 : ℝ) < 2 ^ 80)]
    gcongr
  have a' : |(x : ℝ) / 2 ^ 80 * (N / 2 ^ 80) - (x : ℝ) / 2 ^ 80 * S| ≤ 6 / 2 ^ 80 := by
    rw [← mul_sub, abs_mul, abs_of_nonneg (by positivity : (0 : ℝ) ≤ (x : ℝ) / 2 ^ 80)]
    have := mul_le_mul ((div_le_one (by positivity)).2 hx1) a (abs_nonneg _) zero_le_one
    linarith
  have s1 := abs_sub_le (((x * N / trigOne : Int) : ℝ) / 2 ^ 80) ((x : ℝ) / 2 ^ 80 * (N / 2 ^ 80))
    ((x : ℝ) / 2 ^ 80 * S)
  have s2 := abs_sub_le (((x * N / trigOne : Int) : ℝ) / 2 ^ 80) ((x : ℝ) / 2 ^ 80 * S)
    (Real.sin ((x : ℝ) / 2 ^ 80))
  rw [abs_sub_comm] at t
  have n1 : (1 : ℝ) / 2 ^ 80 + 6 / 2 ^ 80 + 1 / 2 ^ 90 ≤ 1 / 2 ^ 76 := by norm_num
  linarith

theorem radians_close (t : Nat) (ht : t ≤ 16384) :
    0 ≤ radians t ∧ radians t ≤ trigOne ∧ |(radians t : ℝ) / 2 ^ 80 - Real.pi * t / 65536| ≤ 1 / 2 ^ 67 := by
  have hp : (0 : Int) < piScaled := by norm_num [piScaled]
  refine ⟨Int.ediv_nonneg (by positivity) (by norm_num), ?_, ?_⟩
  · have : radians t ≤ 16384 * piScaled / 65536 :=
      Int.ediv_le_ediv (by norm_num) (mul_le_mul_of_nonneg_right (by exact_mod_cast ht) hp.le)
    exact this.trans (by decide)
  · have f := floor_div_close ((t : Int) * piScaled) 65536 (by norm_num)
    have e : radians t = (t : Int) * piScaled / 65536 := rfl
    rw [e]
    have hpi : |(piScaled : ℝ) / 2 ^ 80 - Real.pi| ≤ 1 / 2 ^ 66 := by
      have h1 := Real.pi_gt_d20
      have h2 := Real.pi_lt_d20
      rw [abs_le]
      constructor <;> norm_num [piScaled] at * <;> linarith
    have ht' : (t : ℝ) ≤ 16384 := by exact_mod_cast ht
    have e2 : (((t : Int) * piScaled / 65536 : Int) : ℝ) / 2 ^ 80 - Real.pi * t / 65536
        = ((((t : Int) * piScaled / 65536 : Int) : ℝ) - (((t : Int) * piScaled : Int) : ℝ) / (65536 : Int)) / 2 ^ 80
          + (t : ℝ) / 65536 * ((piScaled : ℝ) / 2 ^ 80 - Real.pi) := by
      push_cast; ring
    rw [e2]
    calc _ ≤ |((((t : Int) * piScaled / 65536 : Int) : ℝ) - (((t : Int) * piScaled : Int) : ℝ) / (65536 : Int)) / 2 ^ 80|
          + |(t : ℝ) / 65536 * ((piScaled : ℝ) / 2 ^ 80 - Real.pi)| := abs_add_le _ _
      _ ≤ 1 / 2 ^ 80 + 1 / 4 * (1 / 2 ^ 66) := by
        refine add_le_add ?_ ?_
        · rw [abs_div, abs_of_pos (by positivity : (0 : ℝ) < 2 ^ 80)]
          gcongr
        · rw [abs_mul, abs_of_nonneg (by positivity : (0 : ℝ) ≤ (t : ℝ) / 65536)]
          refine mul_le_mul ?_ hpi (abs_nonneg _) (by norm_num)
          linarith
      _ ≤ _ := by norm_num

/-- Sine and cosine of `t` half counts up to an eighth of a turn, right to 2^-66. -/
theorem eighth_close (t : Nat) (ht : t ≤ 16384) :
    |(cosSmall (radians t) : ℝ) / 2 ^ 80 - Real.cos (Real.pi * t / 65536)| ≤ 1 / 2 ^ 66
      ∧ |(sinSmall (radians t) : ℝ) / 2 ^ 80 - Real.sin (Real.pi * t / 65536)| ≤ 1 / 2 ^ 66 := by
  obtain ⟨h0, h1, h⟩ := radians_close t ht
  have c := cosSmall_close _ h0 h1
  have s := sinSmall_close _ h0 h1
  have lc : |Real.cos ((radians t : ℝ) / 2 ^ 80) - Real.cos (Real.pi * t / 65536)| ≤ 1 / 2 ^ 67 :=
    (Real.abs_cos_sub_cos_le _ _).trans h
  have ls : |Real.sin ((radians t : ℝ) / 2 ^ 80) - Real.sin (Real.pi * t / 65536)| ≤ 1 / 2 ^ 67 :=
    (Real.abs_sin_sub_sin_le _ _).trans h
  have n : (1 : ℝ) / 2 ^ 76 + 1 / 2 ^ 67 ≤ 1 / 2 ^ 66 := by norm_num
  have n' : (1 : ℝ) / 2 ^ 77 ≤ 1 / 2 ^ 76 := by norm_num
  constructor
  · have := abs_sub_le ((cosSmall (radians t) : ℝ) / 2 ^ 80) (Real.cos ((radians t : ℝ) / 2 ^ 80))
      (Real.cos (Real.pi * t / 65536))
    linarith
  · have := abs_sub_le ((sinSmall (radians t) : ℝ) / 2 ^ 80) (Real.sin ((radians t : ℝ) / 2 ^ 80))
      (Real.sin (Real.pi * t / 65536))
    linarith

theorem neg_close {x y e : ℝ} (h : |x - y| ≤ e) : |-x - -y| ≤ e := by rwa [neg_sub_neg, abs_sub_comm]

/-- Sine and cosine of `t` half counts, at every angle, right to 2^-66. -/
theorem cosSin_close (t : Nat) :
    |((cosSin t).1 : ℝ) / 2 ^ 80 - Real.cos (Real.pi * t / 65536)| ≤ 1 / 2 ^ 66
      ∧ |((cosSin t).2 : ℝ) / 2 ^ 80 - Real.sin (Real.pi * t / 65536)| ≤ 1 / 2 ^ 66 := by
  have hr : t % 16384 < 16384 := Nat.mod_lt _ (by norm_num)
  obtain ⟨cr, sr⟩ := eighth_close (t % 16384) hr.le
  obtain ⟨cq, sq⟩ := eighth_close (16384 - t % 16384) (by omega)
  have hq : Real.pi * ((16384 - t % 16384 : ℕ) : ℝ) / 65536 = Real.pi / 4 - Real.pi * ((t % 16384 : ℕ) : ℝ) / 65536 := by
    rw [Nat.cast_sub hr.le]; push_cast; ring
  rw [hq] at cq sq
  set ρ : ℝ := Real.pi * ((t % 16384 : ℕ) : ℝ) / 65536 with hρ
  have hang : Real.pi * t / 65536
      = (ρ + ((t / 16384 % 8 : ℕ) : ℝ) * (Real.pi / 4)) + ((t / 16384 / 8 : ℕ) : ℝ) * (2 * Real.pi) := by
    have h1 : t = 131072 * (t / 16384 / 8) + 16384 * (t / 16384 % 8) + t % 16384 := by omega
    have h2 : (t : ℝ) = 131072 * ((t / 16384 / 8 : ℕ) : ℝ) + 16384 * ((t / 16384 % 8 : ℕ) : ℝ)
        + ((t % 16384 : ℕ) : ℝ) := by exact_mod_cast h1
    rw [hρ, h2]; ring
  rw [hang, Real.cos_add_nat_mul_two_pi, Real.sin_add_nat_mul_two_pi]
  have hj : t / 16384 % 8 < 8 := Nat.mod_lt _ (by norm_num)
  unfold cosSin
  simp only
  generalize t / 16384 % 8 = j at hj ⊢
  have c4 : ∀ x : ℝ, Real.cos (x + Real.pi / 2) = -Real.sin x := Real.cos_add_pi_div_two
  have s4 : ∀ x : ℝ, Real.sin (x + Real.pi / 2) = Real.cos x := Real.sin_add_pi_div_two
  interval_cases j
  · have e : ρ + ((0 : ℕ) : ℝ) * (Real.pi / 4) = ρ := by push_cast; ring
    rw [e]; exact ⟨cr, sr⟩
  · have e : ρ + ((1 : ℕ) : ℝ) * (Real.pi / 4) = Real.pi / 2 - (Real.pi / 4 - ρ) := by push_cast; ring
    rw [e, Real.cos_pi_div_two_sub, Real.sin_pi_div_two_sub]; exact ⟨sq, cq⟩
  · have e : ρ + ((2 : ℕ) : ℝ) * (Real.pi / 4) = ρ + Real.pi / 2 := by push_cast; ring
    rw [e, c4, s4]; push_cast; rw [neg_div]; exact ⟨neg_close sr, cr⟩
  · have e : ρ + ((3 : ℕ) : ℝ) * (Real.pi / 4) = Real.pi - (Real.pi / 4 - ρ) := by push_cast; ring
    rw [e, Real.cos_pi_sub, Real.sin_pi_sub]; push_cast; rw [neg_div]; exact ⟨neg_close cq, sq⟩
  · have e : ρ + ((4 : ℕ) : ℝ) * (Real.pi / 4) = ρ + Real.pi := by push_cast; ring
    rw [e, Real.cos_add_pi, Real.sin_add_pi]; push_cast; rw [neg_div, neg_div]
    exact ⟨neg_close cr, neg_close sr⟩
  · have e : ρ + ((5 : ℕ) : ℝ) * (Real.pi / 4) = Real.pi / 2 - (Real.pi / 4 - ρ) + Real.pi := by push_cast; ring
    rw [e, Real.cos_add_pi, Real.sin_add_pi, Real.cos_pi_div_two_sub, Real.sin_pi_div_two_sub]
    push_cast; rw [neg_div, neg_div]
    exact ⟨neg_close sq, neg_close cq⟩
  · have e : ρ + ((6 : ℕ) : ℝ) * (Real.pi / 4) = ρ + Real.pi / 2 + Real.pi := by push_cast; ring
    rw [e, Real.cos_add_pi, Real.sin_add_pi, c4, s4, neg_neg]; push_cast; rw [neg_div]
    exact ⟨sr, neg_close cr⟩
  · have e : ρ + ((7 : ℕ) : ℝ) * (Real.pi / 4) = Real.pi - (Real.pi / 4 - ρ) + Real.pi := by push_cast; ring
    rw [e, Real.cos_add_pi, Real.sin_add_pi, Real.cos_pi_sub, Real.sin_pi_sub, neg_neg]; push_cast; rw [neg_div]
    exact ⟨cq, neg_close sq⟩

/-- A rounded value lies within a half of the value. -/
theorem roundScaled_close (x : Int) : |(roundScaled x : ℝ) - (x : ℝ) / 2 ^ 80| ≤ 1 / 2 := by
  have key : ∀ y : Int, |(((y + trigOne / 2) / trigOne : Int) : ℝ) - (y : ℝ) / 2 ^ 80| ≤ 1 / 2 := by
    intro y
    have hU : (trigOne : Int) = 1208925819614629174706176 := by norm_num [trigOne]
    have h1 : ((y + trigOne / 2) / trigOne) * trigOne ≤ y + trigOne / 2 := Int.ediv_mul_le _ (by rw [hU]; norm_num)
    have h2 : y + trigOne / 2 < ((y + trigOne / 2) / trigOne + 1) * trigOne :=
      Int.lt_ediv_add_one_mul_self _ (by rw [hU]; norm_num)
    rw [hU] at h1 h2 ⊢
    generalize (y + 1208925819614629174706176 / 2) / 1208925819614629174706176 = n at h1 h2 ⊢
    norm_num at h1 h2
    have h1' : (n : ℝ) * 1208925819614629174706176 ≤ y + 604462909807314587353088 := by exact_mod_cast h1
    have h2' : (y : ℝ) + 604462909807314587353088 < (n + 1) * 1208925819614629174706176 := by exact_mod_cast h2
    norm_num
    rw [abs_le]
    constructor <;> linarith
  unfold roundScaled
  split
  · exact key x
  · have := key (-x)
    rw [abs_sub_comm] at this
    push_cast at this ⊢
    rw [show -(((-x + trigOne / 2) / trigOne : Int) : ℝ) - (x : ℝ) / 2 ^ 80
      = -(x : ℝ) / 2 ^ 80 - (((-x + trigOne / 2) / trigOne : Int) : ℝ) by ring]
    exact this

/-- The exact value of a ROTATE result, scaled: right to 2^-50 of a count. -/
theorem turned_close (a b : Count) (t : Nat) :
    |((a.toInt * (cosSin t).1 + b.toInt * (cosSin t).2 : Int) : ℝ) / 2 ^ 80
        - ((a.toInt : ℝ) * Real.cos (Real.pi * t / 65536) + b.toInt * Real.sin (Real.pi * t / 65536))| ≤ 1 / 2 ^ 50
      ∧ |((b.toInt * (cosSin t).1 - a.toInt * (cosSin t).2 : Int) : ℝ) / 2 ^ 80
        - ((b.toInt : ℝ) * Real.cos (Real.pi * t / 65536) - a.toInt * Real.sin (Real.pi * t / 65536))| ≤ 1 / 2 ^ 50 := by
  obtain ⟨hc, hs⟩ := cosSin_close t
  have bound : ∀ x : Count, |(x.toInt : ℝ)| ≤ 32768 := by
    intro x
    have h1 := x.le_toInt
    have h2 := x.toInt_lt
    rw [abs_le]
    constructor
    · exact_mod_cast (by simpa using h1)
    · exact_mod_cast (by simp at h2; omega)
  set c := (cosSin t).1
  set s := (cosSin t).2
  set C := Real.cos (Real.pi * t / 65536)
  set S := Real.sin (Real.pi * t / 65536)
  have part : ∀ (x : Count) (y z : ℝ), |y - z| ≤ 1 / 2 ^ 66 → |(x.toInt : ℝ) * (y - z)| ≤ 32768 * (1 / 2 ^ 66) := by
    intro x y z h
    rw [abs_mul]
    exact mul_le_mul (bound x) h (abs_nonneg _) (by norm_num)
  have n : (32768 : ℝ) * (1 / 2 ^ 66) + 32768 * (1 / 2 ^ 66) ≤ 1 / 2 ^ 50 := by norm_num
  constructor
  · have e : ((a.toInt * c + b.toInt * s : Int) : ℝ) / 2 ^ 80 - ((a.toInt : ℝ) * C + b.toInt * S)
        = (a.toInt : ℝ) * (c / 2 ^ 80 - C) + (b.toInt : ℝ) * (s / 2 ^ 80 - S) := by push_cast; ring
    rw [e]
    exact (abs_add_le _ _).trans ((add_le_add (part a _ _ hc) (part b _ _ hs)).trans n)
  · have e : ((b.toInt * c - a.toInt * s : Int) : ℝ) / 2 ^ 80 - ((b.toInt : ℝ) * C - a.toInt * S)
        = (b.toInt : ℝ) * (c / 2 ^ 80 - C) - (a.toInt : ℝ) * (s / 2 ^ 80 - S) := by push_cast; ring
    rw [e]
    exact (abs_sub _ _).trans ((add_le_add (part b _ _ hc) (part a _ _ hs)).trans n)

/-- What is held within two counts of a rounded value lies within two and a half of the value (R41). -/
theorem withinTwo_close (exact formed : Int) : |(withinTwo exact formed : ℝ) - (exact : ℝ) / 2 ^ 80| ≤ 5 / 2 := by
  have h := roundScaled_close exact
  have hw : roundScaled exact - 2 ≤ withinTwo exact formed ∧ withinTwo exact formed ≤ roundScaled exact + 2 := by
    unfold withinTwo clamp
    split
    · omega
    · split <;> omega
  obtain ⟨h1, h2⟩ := hw
  have h1' : (roundScaled exact : ℝ) - 2 ≤ withinTwo exact formed := by exact_mod_cast h1
  have h2' : (withinTwo exact formed : ℝ) ≤ roundScaled exact + 2 := by exact_mod_cast h2
  rw [abs_le] at h ⊢
  constructor <;> linarith [h.1, h.2]

/-- `sqrtBits` finds the integer square root. -/
theorem sqrtBits_spec (n : Nat) : ∀ bits acc : Nat, acc * acc ≤ n → n < (acc + 2 ^ (bits + 1)) * (acc + 2 ^ (bits + 1)) →
    sqrtBits n bits acc * sqrtBits n bits acc ≤ n ∧ n < (sqrtBits n bits acc + 1) * (sqrtBits n bits acc + 1)
  | 0, acc, h, h' => by
    unfold sqrtBits
    split <;> rename_i hc
    · exact ⟨hc, by simpa [add_assoc] using h'⟩
    · exact ⟨h, by omega⟩
  | k + 1, acc, h, h' => by
    unfold sqrtBits
    split <;> rename_i hc
    · refine sqrtBits_spec n k _ hc ?_
      rwa [add_assoc, ← two_mul, ← pow_succ']
    · exact sqrtBits_spec n k _ h (by omega)

/-- The magnitude of ATAN before its tolerance is the square root to the nearest integer (R42). -/
theorem magnitudeExact_close (a b : Count) :
    |(magnitudeExact a.toInt b.toInt : ℝ) - Real.sqrt ((a.toInt : ℝ) ^ 2 + (b.toInt : ℝ) ^ 2)| ≤ 1 / 2 := by
  have bound : ∀ x : Count, x.toInt * x.toInt ≤ 1073741824 := by
    intro x
    have h1 := x.le_toInt
    have h2 := x.toInt_lt
    simp at h1 h2
    nlinarith
  set n : Nat := (a.toInt * a.toInt + b.toInt * b.toInt).toNat with hn
  have hnn : 0 ≤ a.toInt * a.toInt + b.toInt * b.toInt := add_nonneg (mul_self_nonneg _) (mul_self_nonneg _)
  have hn' : (n : ℝ) = (a.toInt : ℝ) ^ 2 + (b.toInt : ℝ) ^ 2 := by
    have : ((n : Int) : ℝ) = ((a.toInt * a.toInt + b.toInt * b.toInt : Int) : ℝ) := by rw [hn, Int.toNat_of_nonneg hnn]
    push_cast at this
    rw [this]; ring
  have hlt : n < (0 + 2 ^ (16 + 1)) * (0 + 2 ^ (16 + 1)) := by
    have := bound a; have := bound b; omega
  obtain ⟨h1, h2⟩ := sqrtBits_spec n 16 0 (by simp) hlt
  have e : magnitudeExact a.toInt b.toInt
      = if sqrtBits n 16 0 * sqrtBits n 16 0 + sqrtBits n 16 0 < n then (sqrtBits n 16 0 : Int) + 1
        else (sqrtBits n 16 0 : Int) := rfl
  rw [e, ← hn']
  set k := sqrtBits n 16 0
  have k0 : (0 : ℝ) ≤ k := Nat.cast_nonneg k
  have n0 : (0 : ℝ) ≤ n := Nat.cast_nonneg n
  have s2 : Real.sqrt n * Real.sqrt n = n := Real.mul_self_sqrt n0
  have s0 := Real.sqrt_nonneg (n : ℝ)
  have h1' : (k : ℝ) * k ≤ n := by exact_mod_cast h1
  have h2' : (n : ℝ) < (k + 1) * (k + 1) := by exact_mod_cast h2
  split <;> rename_i hc
  · have hc' : (k : ℝ) * k + k + 1 ≤ n := by exact_mod_cast hc
    push_cast
    rw [abs_le]
    constructor <;> nlinarith
  · have hc' : (n : ℝ) ≤ (k : ℝ) * k + k := by exact_mod_cast (not_lt.1 hc)
    push_cast
    rw [abs_le]
    constructor <;> nlinarith

/-- `angleSearch` finds a count that is reached while the next is not. -/
theorem angleSearch_spec (u v : Int) : ∀ bits acc : Nat, reaches u v acc = true →
    reaches u v (acc + 2 ^ (bits + 1)) = false →
    reaches u v (angleSearch u v bits acc) = true ∧ reaches u v (angleSearch u v bits acc + 1) = false
      ∧ angleSearch u v bits acc < acc + 2 ^ (bits + 1)
  | 0, acc, h, h' => by
    unfold angleSearch
    split <;> rename_i hc
    · exact ⟨hc, by simpa [add_assoc] using h', by omega⟩
    · exact ⟨h, by simpa using hc, by omega⟩
  | k + 1, acc, h, h' => by
    unfold angleSearch
    split <;> rename_i hc
    · have := angleSearch_spec u v k _ hc (by rwa [add_assoc, ← two_mul, ← pow_succ'])
      rwa [add_assoc, ← two_mul, ← pow_succ'] at this
    · obtain ⟨h1, h2, h3⟩ := angleSearch_spec u v k _ h (by simpa using hc)
      exact ⟨h1, h2, h3.trans (by rw [pow_succ 2 (k + 1)]; have := Nat.two_pow_pos (k + 1); omega)⟩

/-- The comparison of `reaches`, scaled, is right to 2^-50: for a vector (r cos α, r sin α) it is r sin (α − φ). -/
theorem cross_close (u v : Int) (hu : |u| ≤ 32768) (hv : |v| ≤ 32768) (r α : ℝ) (eu : (u : ℝ) = r * Real.cos α)
    (ev : (v : ℝ) = r * Real.sin α) (t : Nat) :
    |((v * (cosSin t).1 - u * (cosSin t).2 : Int) : ℝ) / 2 ^ 80 - r * Real.sin (α - Real.pi * t / 65536)| ≤ 1 / 2 ^ 50 := by
  obtain ⟨hc, hs⟩ := cosSin_close t
  set c := (cosSin t).1
  set s := (cosSin t).2
  have hu' : |(u : ℝ)| ≤ 32768 := by exact_mod_cast hu
  have hv' : |(v : ℝ)| ≤ 32768 := by exact_mod_cast hv
  have e : ((v * c - u * s : Int) : ℝ) / 2 ^ 80 - r * Real.sin (α - Real.pi * t / 65536)
      = (v : ℝ) * (c / 2 ^ 80 - Real.cos (Real.pi * t / 65536))
        - (u : ℝ) * (s / 2 ^ 80 - Real.sin (Real.pi * t / 65536)) := by
    rw [Real.sin_sub, mul_sub, ← mul_assoc, ← mul_assoc, ← ev, ← eu]; push_cast; ring
  rw [e]
  refine (abs_sub _ _).trans ?_
  rw [abs_mul, abs_mul]
  have h1 := mul_le_mul hv' hc (abs_nonneg _) (by norm_num)
  have h2 := mul_le_mul hu' hs (abs_nonneg _) (by norm_num)
  have n : (32768 : ℝ) * (1 / 2 ^ 66) + 32768 * (1 / 2 ^ 66) ≤ 1 / 2 ^ 50 := by norm_num
  linarith

/-- The sine over most of a half turn. -/
theorem sin_ge (ψ δ : ℝ) (hδ : 0 ≤ δ) (h1 : δ ≤ ψ) (h2 : ψ ≤ Real.pi - δ) : 2 / Real.pi * δ ≤ Real.sin ψ := by
  have hp := Real.pi_pos
  rcases le_total ψ (Real.pi / 2) with h | h
  · calc 2 / Real.pi * δ ≤ 2 / Real.pi * ψ := by gcongr
      _ ≤ _ := Real.mul_le_sin (by linarith) h
  · rw [← Real.sin_pi_sub]
    calc 2 / Real.pi * δ ≤ 2 / Real.pi * (Real.pi - ψ) := by gcongr; linarith
      _ ≤ _ := Real.mul_le_sin (by linarith) (by linarith)

/-- The angle found for a vector of the first quarter turn is its angle in counts to the nearest count, but for
2^-32 (R42). -/
theorem angleSearch_close (u v : Int) (hu0 : 0 < u) (hv0 : 0 ≤ v) (hu : u ≤ 32768) (hv : v ≤ 32768) (r α : ℝ)
    (hr : 1 ≤ r) (eu : (u : ℝ) = r * Real.cos α) (ev : (v : ℝ) = r * Real.sin α) (h0 : 0 ≤ α)
    (h1 : α < Real.pi / 2) :
    |(angleSearch u v 14 0 : ℝ) - 65536 * α / (2 * Real.pi)| ≤ 1 / 2 + 1 / 2 ^ 32 := by
  have hp := Real.pi_pos
  have hp3 := Real.pi_gt_three
  have hp4 := Real.pi_le_four
  have hua : |u| ≤ 32768 := by rw [abs_of_pos hu0]; exact hu
  have hva : |v| ≤ 32768 := by rw [abs_of_nonneg hv0]; exact hv
  have cross := cross_close u v hua hva r α eu ev
  have pos : ∀ k, reaches u v (k + 1) = true →
      -(1 / 2 ^ 50) ≤ Real.sin (α - Real.pi * ((2 * k + 1 : ℕ) : ℝ) / 65536) ∨ 0 ≤ Real.sin (α - Real.pi * ((2 * k + 1 : ℕ) : ℝ) / 65536) := by
    intro k hk
    have hk' : 0 ≤ v * (cosSin (2 * k + 1)).1 - u * (cosSin (2 * k + 1)).2 := by simpa [reaches] using hk
    have hk'' : (0 : ℝ) ≤ ((v * (cosSin (2 * k + 1)).1 - u * (cosSin (2 * k + 1)).2 : Int) : ℝ) / 2 ^ 80 := by
      apply div_nonneg _ (by positivity)
      exact_mod_cast hk'
    have := (abs_le.1 (cross (2 * k + 1))).2
    rcases le_total 0 (Real.sin (α - Real.pi * ((2 * k + 1 : ℕ) : ℝ) / 65536)) with h | h
    · exact .inr h
    · left
      nlinarith
  have neg : ∀ k, reaches u v (k + 1) = false →
      Real.sin (α - Real.pi * ((2 * k + 1 : ℕ) : ℝ) / 65536) ≤ 1 / 2 ^ 50 := by
    intro k hk
    have hk' : v * (cosSin (2 * k + 1)).1 - u * (cosSin (2 * k + 1)).2 < 0 := by simpa [reaches] using hk
    have hk'' : ((v * (cosSin (2 * k + 1)).1 - u * (cosSin (2 * k + 1)).2 : Int) : ℝ) / 2 ^ 80 < 0 := by
      apply div_neg_of_neg_of_pos _ (by positivity)
      exact_mod_cast hk'
    have := (abs_le.1 (cross (2 * k + 1))).1
    by_contra hcon
    push Not at hcon
    nlinarith [mul_le_mul hr hcon.le (by positivity) (by linarith)]
  have start : reaches u v (0 + 2 ^ (14 + 1)) = false := by
    by_contra hcon
    have ht : reaches u v (32767 + 1) = true := by simpa using hcon
    have hs := sin_ge (Real.pi * ((2 * 32767 + 1 : ℕ) : ℝ) / 65536 - α) (Real.pi / 65536) (by positivity)
      (by push_cast; nlinarith) (by push_cast; nlinarith)
    have e : 2 / Real.pi * (Real.pi / 65536) = 2 / 65536 := by field_simp
    rw [e, ← neg_sub, Real.sin_neg] at hs
    have n : (1 : ℝ) / 2 ^ 50 < 2 / 65536 := by norm_num
    rcases pos 32767 ht with h | h <;> linarith
  obtain ⟨hk, hk1, hlt⟩ := angleSearch_spec u v 14 0 rfl start
  generalize angleSearch u v 14 0 = k at hk hk1 hlt ⊢
  have hk32 : k < 32768 := by simpa using hlt
  have hd : (2 : ℝ) / Real.pi * (1 / 2 ^ 49) > 1 / 2 ^ 50 := by
    rw [gt_iff_lt, div_mul_div_comm, div_lt_div_iff₀ (by positivity) (by positivity)]
    nlinarith [Real.pi_lt_d2]
  have top : α - Real.pi * ((2 * k + 1 : ℕ) : ℝ) / 65536 ≤ 1 / 2 ^ 49 := by
    by_contra hcon
    push Not at hcon
    have hn := neg k hk1
    have hnn : 0 ≤ Real.pi * ((2 * k + 1 : ℕ) : ℝ) / 65536 := by positivity
    have hs := sin_ge _ (1 / 2 ^ 49) (by positivity) hcon.le
      (by have : (1 : ℝ) / 2 ^ 49 ≤ 1 := by norm_num
          linarith)
    linarith
  have bot : (k : ℝ) = 0 ∨ -(1 / 2 ^ 49) ≤ α - Real.pi * (2 * (k : ℝ) - 1) / 65536 := by
    rcases Nat.eq_zero_or_pos k with h | h
    · left; simp [h]
    · right
      obtain ⟨j, rfl⟩ : ∃ j, k = j + 1 := ⟨k - 1, by omega⟩
      have ej : Real.pi * (2 * ((j + 1 : ℕ) : ℝ) - 1) / 65536 = Real.pi * ((2 * j + 1 : ℕ) : ℝ) / 65536 := by
        push_cast; ring
      rw [ej]
      by_contra hcon
      push Not at hcon
      have hj : (j : ℝ) ≤ 32766 := by exact_mod_cast (by omega : j ≤ 32766)
      have hs := sin_ge (Real.pi * ((2 * j + 1 : ℕ) : ℝ) / 65536 - α) (1 / 2 ^ 49) (by positivity) (by linarith)
        (by push_cast; norm_num; nlinarith)
      rw [← neg_sub, Real.sin_neg] at hs
      rcases pos j hk with h' | h' <;> linarith
  have c1 : 65536 * α / (2 * Real.pi) ≤ k + 1 / 2 + 1 / 2 ^ 32 := by
    rw [div_le_iff₀ (by positivity)]
    push_cast at top
    norm_num at top ⊢
    nlinarith
  have c2 : (k : ℝ) - 1 / 2 - 1 / 2 ^ 32 ≤ 65536 * α / (2 * Real.pi) := by
    rw [le_div_iff₀ (by positivity)]
    rcases bot with h | h
    · rw [h]; norm_num; nlinarith
    · norm_num at h ⊢
      nlinarith
  rw [abs_le]
  constructor <;> linarith

/-- The quarter turns taken off a vector other than 0, and the vector of the first quarter turn they leave (R42). -/
theorem firstQuarter_spec (x y : Int) (h : x ≠ 0 ∨ y ≠ 0) :
    (firstQuarter x y).1 < 4 ∧ 0 < (firstQuarter x y).2.1 ∧ 0 ≤ (firstQuarter x y).2.2
      ∧ (x : ℂ) + y * Complex.I = Complex.I ^ (firstQuarter x y).1
        * ((firstQuarter x y).2.1 + (firstQuarter x y).2.2 * Complex.I) := by
  have hI : Complex.I ^ 3 = -Complex.I := by rw [pow_succ, Complex.I_sq]; ring
  unfold firstQuarter
  split
  · refine ⟨by norm_num, by simp only; omega, by simp only; omega, by simp⟩
  · split
    · refine ⟨by norm_num, by simp only; omega, by simp only; omega, ?_⟩
      push_cast; linear_combination (x : ℂ) * Complex.I_sq
    · split
      · refine ⟨by norm_num, by simp only; omega, by simp only; omega, ?_⟩
        rw [Complex.I_sq]; push_cast; ring
      · refine ⟨by norm_num, by simp only; omega, by simp only; omega, ?_⟩
        rw [hI]; push_cast; linear_combination (x : ℂ) * Complex.I_sq

end Sys2Proof.Laws.Trig
end

