-- ==== Sys2Proof/Tests/Slice0.lean ====
section
/-! SUPPORT. Tests. Expected values come from the manual's tables and worked examples, cited at each test; each
`witness_` theorem shows a state and operands that meet the premises of the obligation it is named after, clause by
clause. -/

namespace Sys2Proof.Tests

open Sys2Proof Sys2Proof.Machine

set_option Elab.async false

/-! ## Small states -/

/-- The state after a command. -/
def after (c : Instr) (s : State) : State :=
  match exec c s with
  | .next t => t
  | _ => s

/-- A running part in SAFE, straight from reset. -/
def base : State := { State.reset with power := .running }

/-- The same in RUN. -/
def inRun : State := { base with ctl := { base.ctl with mode := .run, safeN := .high } }

def put (s : State) (i : LoopId) (l : LoopEntry) : State := { s with loops := s.loops.set i l }

def stageOf (op : StageOp) : StageDesc := ⟨op, 0, 0, false⟩

/-- L5 of the example 5.5: period 5, offset 2; input A is S3, out range −1 000..1 000, safe value 7. -/
def demo : Definition where
  priority := 2
  period := 5
  offset := 2
  inputA := .sample 3
  inputB := none
  stages := [stageOf .gain]
  outMin := -1000
  outMax := 1000
  safeValue := 7
  holdAction := .safe
  stalePolicy := .use
  maxAge := 0
  missLimit := 0
  arithPolicy := .proceed
  reportMode := .every
  reportParam := 0
  includeSecondary := false
  alarmMask := 0b11111

def loopOf (d : Definition) (st : LoopState) : LoopEntry :=
  { resetLoop with definition := some d, state := st }

/-- A loop whose release is due at tick 0. -/
def dueLoop (d : Definition) : LoopEntry := { loopOf d .active with nextRelease := some 0 }

def withSlots (s : State) (f : List Frame) : State := { s with link := { s.link with slots := f } }
def withResponses (s : State) (r : List Response) : State := { s with link := { s.link with responses := r } }
def withTx (s : State) (tx : Transmitter) : State := { s with link := { s.link with tx := tx } }
/-- A frame stands on the wire, so that the order of a response and a report (log entry 2) does not come up. -/
def busy (s : State) : State := withTx s (.sending [] false)
def withLink (s : State) (st : LinkState) (lec : BitVec 8) : State :=
  { s with link := { s.link with state := st, lec := lec } }
def withRx (s : State) (rx : Receiver) : State := { s with link := { s.link with rx := rx, gapTimer := .running } }
def withStore (s : State) (l : List ReportEntry) : State := { s with rep := { s.rep with store := l } }
def withSup (s : State) (n : Nat) : State :=
  { s with ctl := { s.ctl with supInterval := n, supTimer := if n = 0 then none else some n } }

def pingFrame : Frame := ⟨0x04, 1, []⟩
def aResponse : Response := ⟨0x84, 1, [0, 0, 0, 0, 0], false⟩
def anOutput (i : LoopId) : OutputReport := ⟨i, 5, none, 0, false, false, false⟩
def outputEntry (i : LoopId) (st : EntryState) : ReportEntry := ⟨.output (anOutput i), st, 0⟩

def instanceOf (i : LoopId) (p : Fin 8) : Instance :=
  ⟨i, 0, p, 3, 0, 1, Vector.replicate 4 none, ⟨false, false, false⟩, false⟩

/-- L1 ACTIVE with its instance at a stage in progress. -/
def inStage (d : Definition) (x : Instance) : State :=
  { put inRun x.loop { loopOf d .active with status := .running, nextRelease := some 9 } with
    cu := { state := .stage, due := [], running := some x, stack := [] } }

/-- The payload of the response on the wire, behind KIND, TAG and LEN. -/
def answer (s : State) : List Byte :=
  match s.link.tx with
  | .sending (_ :: _ :: _ :: _ :: rest) _ => rest.take (rest.length - 2)
  | _ => []

/-! ## WellFormed refuses what no frame can carry -/

theorem test_wf_refuses_long_payload : (Instr.ping 0 (List.replicate 241 0)).wf = false := by decide +kernel
theorem test_wf_refuses_long_mask_field : (Instr.commitCoefApply 0 (List.replicate 240 0)).wf = false := by
  decide +kernel
theorem test_wf_refuses_known_kind : (Instr.unknownKindRequest 0x04 0 []).wf = false := by decide +kernel
theorem test_wf_refuses_ack_kind : (Instr.unknownKindRequest 0x40 0 []).wf = false := by decide +kernel
theorem test_wf_takes_full_frame :
    (Instr.defineLoop 0 (List.replicate 240 0)).wf = true ∧ (Instr.unknownKindRequest 0x09 0 []).wf = true := by
  decide +kernel

/-! ## The frame format -/

/-- The check of R153: "123456789" gives 29B1h. -/
theorem test_crc_of_123456789 :
    crc16 [0x31, 0x32, 0x33, 0x34, 0x35, 0x36, 0x37, 0x38, 0x39] = 0x29B1 := by decide +kernel

/-- A PING of tag 7 byte by byte: the frame of R153 is SYNC, KIND, TAG, LEN, CHECK. -/
theorem test_frame_bytes :
    frameBytes 0x04 0x07 [] = 0xA5 :: 0x04 :: 0x07 :: 0x00 :: bytes16 (crc16 [0x04, 0x07, 0x00]) := by
  decide +kernel

/-! ## The arithmetic's tables (chapter 2) -/

/-- GAIN's rows of 2.3: 1 000 × 3 000 >> 2 saturates, and so does the negated −32 768. -/
theorem test_gain_saturates :
    (let r := runStage ⟨.gain, 0, 2, false⟩ ⟨3000, 0, 0, 0⟩ ⟨0, 0, 0, false⟩ 1000 4
     r.a = 32767 ∧ r.b = 4 ∧ r.sat = true)
    ∧ (runStage ⟨.gain, 1, 0, false⟩ ⟨-1, 0, 0, 0⟩ ⟨0, 0, 0, false⟩ 9 0x8000).b = 32767 := by decide +kernel

/-- SUM's example in R34. -/
theorem test_sum_example :
    (runStage (stageOf .sum) ⟨16384, 8192, 50, 0⟩ ⟨0, 0, 0, false⟩ 1200 (-400)).a = 1050 := by decide +kernel

/-- DIV's rows in R39 and the substitution of R40. -/
theorem test_div_rows :
    (runStage ⟨.div, 0, 4, false⟩ ⟨0, 0, 0, 0⟩ ⟨0, 0, 0, false⟩ 1000 3).a = 5333
    ∧ (runStage ⟨.div, 0, 0, false⟩ ⟨0, 0, 0, 0⟩ ⟨0, 0, 0, false⟩ (-1000) 3).a = -333
    ∧ (runStage ⟨.div, 0, 0, false⟩ ⟨0, 0, 0, 0⟩ ⟨0, 0, 0, false⟩ 0x8000 (-1)).sat = true
    ∧ (runStage ⟨.div, 0, 0, false⟩ ⟨0, 0, 0, 0⟩ ⟨0, 0, 0, false⟩ (-1) 0).a = 0x8000 := by decide +kernel

/-- LPF in instance 2 of 2.7. -/
theorem test_lpf_example :
    (let r := runStage (stageOf .lpf) ⟨16384, 0, 0, 0⟩ ⟨13107200, 0, 0, true⟩ 260 0
     r.a = 230 ∧ r.proposal = some ⟨15073280, none⟩) := by decide +kernel

/-- PID in instance 2 of 2.7, rounded down. -/
theorem test_pid_example :
    (let r := runStage (stageOf .pid) ⟨4096, 1024, 0, 500⟩ ⟨307200, 300, 0, true⟩ 230 0
     r.a = 412 ∧ r.proposal = some ⟨583680, some 270⟩ ∧ r.sat = false) := by decide +kernel

/-- PID held in saturation, 2.8. -/
theorem test_pid_saturation_example :
    (let r := runStage (stageOf .pid) ⟨8192, 410, 0, 30000⟩ ⟨1000000, 49000, 0, true⟩ (-20000) 0
     r.a = 32767 ∧ r.sat = true ∧ r.proposal = some ⟨1000000, some 50000⟩) := by decide +kernel

/-- LIMIT in instance 2 of 2.7. -/
theorem test_limit_example :
    (let r := runStage (stageOf .limit) ⟨0, 400, 100, 0⟩ ⟨375, 0, 0, true⟩ 412 0
     r.a = 400 ∧ r.sat = true ∧ r.proposal = some ⟨400, none⟩) := by decide +kernel

/-- ROTATE by a quarter turn negates −32 768 to 32 767 with SAT (R43). -/
theorem test_rotate_quarter_turn :
    runStage (stageOf .rotate) ⟨0x4000, 0, 0, 0⟩ ⟨0, 0, 0, false⟩ 0x8000 5 = ⟨5, 32767, none, true, false⟩ := by
  decide +kernel

/-- ATAN of a vector on the negative x axis: magnitude and half a turn (R43). -/
theorem test_atan_on_the_axis :
    runStage (stageOf .atan) ⟨0, 0, 0, 0⟩ ⟨0, 0, 0, false⟩ (-300) 0 = ⟨300, 0x8000, none, false, false⟩ := by
  decide +kernel

/-- At θ = 1 the a′ of (29 882, 15 647) is 10^-11 below 29 883½, computed to 40 places; it rounds to 29 883
(R41). -/
theorem test_rotate_near_a_tie :
    (let (c, s) := cosSin 2
     roundScaled (29882 * c + 15647 * s) = 29883) := by decide +kernel

/-! ## Alignment (5.5) -/

theorem test_first_release_examples :
    firstRelease 1000 5 2 = 1002 ∧ firstRelease 1002 5 2 = 1007 ∧ firstRelease 0xFFFFFFFE 3 2 = 2 := by
  decide +kernel

/-! ## Resets and start-up (R138, R193, R194) -/

theorem test_powerOnReset_takes_the_straps :
    (after (.powerOnReset 2) inRun).link.lineRate = 2 ∧ (after (.powerOnReset 2) inRun).ctl.mode = .safe
    ∧ (after (.powerOnReset 2) inRun).ctl.powerOnFlag = true := by decide +kernel

theorem test_pinReset_keeps_the_power_on_flag :
    (let s := after (.pinReset 1) { base with ctl := { base.ctl with powerOnFlag := false } }
     s.ctl.resetCause = .pin ∧ s.ctl.powerOnFlag = false ∧ s.power = .inReset) := by decide +kernel

theorem test_startUp_admits_the_boot_report :
    (after (.startUp false) State.reset).rep.store = [⟨.boot .powerOn true 0x01, .queued, 0⟩]
    ∧ (after (.startUp true) State.reset).link.rxd = .startUpLow := by decide +kernel

theorem test_startUpHoldEnd_sends_the_boot_report :
    (let s := after .startUpHoldEnd (after (.startUp false) State.reset)
     s.link.tx = .sending (frameBytes 0xC3 0x00 [0x00, 0x01, 0x01]) false ∧ s.rep.nextRsn = 1) := by decide +kernel

/-! ## Requests (chapter 10 and the mask rule's example 1.7) -/

theorem test_identify_answers :
    answer (after (.identify 9 []) base) = [0x00, 0x04, 0x16, 0x01, 16, 32, 4, 3, 24] := by decide +kernel

theorem test_status_answers_37_bytes :
    (answer (after (.status 9 []) base)).length = 37 ∧ (answer (after (.status 9 []) base)).drop 31 = [0, 0, 0, 0, 0, 0] := by
  decide +kernel

theorem test_configure_stores :
    (let s := after (.configure 9 [200, 0xEA, 0x60, 16, 0x03, 0xE8, 7]) base
     answer s = [0x00] ∧ s.time.tickLength = 200 ∧ s.ctl.supTimer = some 60000 ∧ s.rep.window = 4
       ∧ s.rep.defaultWindow = 16 ∧ s.rep.retryTimeout = 1000) := by decide +kernel

theorem test_configure_refuses_201 : answer (after (.configure 9 [201, 0, 0, 4, 0, 50, 3]) base) = [0x03] := by
  decide +kernel

theorem test_ping_answers_the_tick_count :
    answer (after (.ping 9 []) { base with time := { base.time with tick := 0x01020304 } }) = [0x00, 1, 2, 3, 4] := by
  decide +kernel

theorem test_enterSafe_holds_an_active_loop :
    (let s := after (.enterSafe 9 []) (busy (put inRun 1 (dueLoop demo)))
     (s.loop 1).state = .held .safe ∧ s.ctl.safeCause = .host ∧ s.rep.store.length = 2) := by decide +kernel

theorem test_resume_arms :
    (let s := after (.resume 9 []) (busy (put { base with time := { base.time with tick := 1000 } } 1 (loopOf demo .armed)))
     (s.loop 1).nextRelease = some 1002 ∧ s.ctl.safeN = .high) := by decide +kernel

theorem test_resume_refused_while_mute : answer (after (.resume 9 []) (withLink base .mute 200)) = [0x08] := by
  decide +kernel

theorem test_reset_stops_the_dispatcher :
    (after (.reset 9 []) base).ctl.resetPending = true
    ∧ (after (.frameEnd 3 false) (after (.reset 9 []) base)).ctl.resetCause = .command := by decide +kernel

theorem test_clearCause : (after (.clearCause 9 []) base).ctl.powerOnFlag = false := by decide +kernel

/-- The example of 10.3: L5 of 5.5 written out field by field from the layout. -/
def demoBytes : List Byte :=
  [5, 2, 0x00, 0x05, 0x00, 0x02, 1, 3, 0xFF, 0x00, 1, 0xFC, 0x18, 0x03, 0xE8, 0x00, 0x07, 1, 0, 0x00, 0x00, 0, 0, 0,
    0x00, 0x00, 0, 0x1F, 1, 0, 0, 0, 0x00, 0x01, 0x00, 0x00, 0x00, 0x00, 0x00, 0x00]

theorem test_defineLoop_from_bytes :
    (let s := after (.defineLoop 9 demoBytes) base
     answer s = [0x00] ∧ (s.loop 5).definition = some demo ∧ (s.loop 5).state = .idle) := by decide +kernel

theorem test_defineLoop_refuses_priority_8 : answer (after (.defineLoop 9 (demoBytes.set 1 8)) base) = [0x03] := by
  decide +kernel

theorem test_armLoop_arming_point :
    (let s := after (.armLoop 9 [0x00, 0x20]) (put { inRun with time := { inRun.time with tick := 1002 } } 5 (loopOf demo .idle))
     (s.loop 5).state = .armed ∧ (s.loop 5).nextRelease = some 1007) := by decide +kernel

theorem test_holdLoop_reports_the_safe_value :
    (let s := after (.holdLoop 9 [0x00, 0x02]) (busy (put inRun 1 (dueLoop demo)))
     (s.loop 1).state = .held .host ∧ (s.loop 1).safeSub = true ∧ (s.loop 1).lastReported = some 7) := by
  decide +kernel

/-- The loops of example 1.7. -/
def mixed : State :=
  put (put (put (put inRun 0 (dueLoop demo)) 1 (loopOf demo (.held .host))) 3 (loopOf demo .idle)) 4 (loopOf demo .faulted)

theorem test_unholdLoop_example : answer (after (.unholdLoop 9 [0x00, 0x1F]) mixed) = [0x04, 0x00, 0x04] := by
  decide +kernel

theorem test_unholdLoop_arms : ((after (.unholdLoop 9 [0x00, 0x02]) mixed).loop 1).state = .armed := by decide +kernel

theorem test_clearLoop : ((after (.clearLoop 9 [0x00, 0x10]) mixed).loop 4) = resetLoop := by decide +kernel

theorem test_readLoop_answers_132_bytes :
    (answer (after (.readLoop 9 [1]) mixed)).length = 132
    ∧ (answer (after (.readLoop 9 [1]) mixed)).take 3 = [0x00, 0x04, 0x01] := by decide +kernel

theorem test_presetLoop_writes_the_stage :
    (let s := after (.presetLoop 9 ([3, 0x00, 0x0A, 1, 1] ++ [0, 0, 0, 5, 0, 0, 0, 6, 0, 0, 0, 7]))
        (put base 3 (loopOf { demo with stages := [stageOf .pid] } .idle))
     (s.loop 3).mem[0] = ⟨5, 6, 0, true⟩ ∧ (s.loop 3).primary = 10) := by decide +kernel

theorem test_loadCoef_writes_the_pending_bank :
    (let s := after (.loadCoef 9 [3, 1, 0, 1, 0, 2, 0, 3, 0, 4]) (put base 3 (loopOf demo .idle))
     (s.loop 3).pendingBank[0] = ⟨1, 2, 3, 4⟩ ∧ (s.loop 3).activeBank[0] = ⟨0, 0, 0, 0⟩) := by decide +kernel

theorem test_commitCoefApply :
    (let l : LoopEntry := { dueLoop demo with pendingBank := Vector.replicate 4 ⟨1, 2, 3, 4⟩ }
     ((after (.commitCoefApply 9 [0, 2]) (put inRun 1 l)).loop 1).commitPending = true
     ∧ ((after (.commitCoefApply 9 [0, 2]) (put inRun 1 { l with state := .idle })).loop 1).activeBank[0] = ⟨1, 2, 3, 4⟩) := by
  decide +kernel

theorem test_commitCoefDiscard :
    (let l : LoopEntry := { dueLoop demo with pendingBank := Vector.replicate 4 ⟨1, 2, 3, 4⟩, commitPending := true }
     let s := after (.commitCoefDiscard 9 [0, 2]) (put inRun 1 l)
     (s.loop 1).commitPending = false ∧ (s.loop 1).pendingBank[0] = ⟨0, 0, 0, 0⟩) := by decide +kernel

theorem test_readCoef_bad_selector : answer (after (.readCoef 9 [3, 2]) base) = [0x03] := by decide +kernel

theorem test_writeSamples_last_pair_wins :
    (let s := after (.writeSamples 9 [2, 3, 0x00, 0x05, 3, 0x00, 0x06]) { base with time := { base.time with tick := 8 } }
     s.slot 3 = ⟨6, 8, true⟩ ∧ answer s = [0x00, 0, 0, 0, 8]) := by decide +kernel

theorem test_readSamples_range :
    (answer (after (.readSamples 9 [31, 1]) base)).length = 8 ∧ answer (after (.readSamples 9 [31, 2]) base) = [0x03] := by
  decide +kernel

theorem test_readAlarms_answers_50_bytes :
    (answer (after (.readAlarms 9 []) base)).take 5 = [0x00, 0x00, 0x00, 0x1F, 0x00]
    ∧ (answer (after (.readAlarms 9 []) base)).length = 50 := by decide +kernel

/-- Rows 4 to 6 of example 7.6, with room in the store: SAT enabled joins the owed MISS. -/
theorem test_maskAlarms_example :
    (let l : LoopEntry := { loopOf demo .idle with alarms := ⟨0b00111, 0b10110, 0b00110⟩ }
     let s := after (.maskAlarms 9 [0, 2, 0b10011]) (busy (put base 1 l))
     (s.loop 1).alarms = ⟨0b00111, 0b10011, 0⟩ ∧ s.alertN = .low) := by decide +kernel

theorem test_clearAlarms :
    (let l : LoopEntry := { loopOf demo .idle with alarms := ⟨0b00111, 0b10011, 0⟩ }
     let s := after (.clearAlarms 9 [0, 2, 0b00111]) (put base 1 l)
     (s.loop 1).alarms.latched = 0 ∧ s.alertN = .high) := by decide +kernel

theorem test_unknownKindRequest : answer (after (.unknownKindRequest 0x99 9 [1, 2]) base) = [0x01] := by decide +kernel

/-! ## The line (9.10 and 8.8) -/

theorem test_crcError_row_1 :
    (let s := after .crcError (withLink inRun .ok 60)
     s.link.lec = 68 ∧ s.link.state = .warn ∧ s.rep.droppedCount = 0) := by decide +kernel

theorem test_lengthError_row_5 :
    (let s := after .lengthError (withLink inRun .warn 125)
     s.link.lec = 133 ∧ s.link.state = .mute ∧ s.ctl.safeCause = .linkMute) := by decide +kernel

theorem test_gapTimerExpiry_row_2 : (after .gapTimerExpiry (withRx (withLink inRun .warn 68) (.header []))).link.lec = 72 := by
  decide +kernel

theorem test_goodFrame_row_7 :
    (let s := after (.goodFrame 0x04 1 []) (busy (withLink base .mute 64))
     s.link.state = .ok ∧ s.rep.store.map (·.report) = [.engine .muteLeft]) := by decide +kernel

theorem test_framingError_in_hunt :
    (after (.framingError 1) base) = base ∧ (after (.framingError 0) base).link.rxd = .undecided := by decide +kernel

/-- The acknowledgement at t = 4 of 8.8 removes RSN 7 and restarts the timer. -/
theorem test_reportAck_example :
    (let s := withStore (busy base) [outputEntry 2 (.sent 7), outputEntry 5 (.sent 8), outputEntry 9 (.sent 9)]
     (after (.reportAck 0 [7, 4]) s).rep.store = [outputEntry 5 (.sent 8), outputEntry 9 (.sent 9)]
     ∧ (after (.reportAck 0 [7, 4]) s).rep.retryTimer = some 50) := by decide +kernel

/-- The expiry at t = 54 of 8.8: all go back, the oldest takes retry count 1. -/
theorem test_retryTimerExpiry_example :
    (let s := withStore (busy base) [outputEntry 5 (.sent 8), outputEntry 9 (.sent 9)]
     (after .retryTimerExpiry { s with rep := { s.rep with retryTimer := some 50 } }).rep.store
       = [{ outputEntry 5 (.resend 8) with retryCount := 1 }, outputEntry 9 (.resend 9)]) := by decide +kernel

theorem test_lineBreak :
    (let s := after (.lineBreak 0) (withLink (withSlots base [pingFrame]) .warn 70)
     s.link.slots = [] ∧ s.link.lec = 0 ∧ s.link.counters.breaks = 1 ∧ s.rep.store.length = 1) := by decide +kernel

theorem test_rxdReturnsHigh_after_break :
    (after .rxdReturnsHigh (after (.lineBreak 0) base)).link.rxd = .taking := by decide +kernel

theorem test_byteReceived :
    (after (.byteReceived 0xA5) base).link.rx = .header [] ∧ (after (.byteReceived 0xA4) base).link.rx = .hunt := by
  decide +kernel

theorem test_frameEnd_begins_the_next_response :
    (after (.frameEnd 0 false) (withResponses (busy base) [aResponse])).link.tx
      = .sending (frameBytes 0x84 1 [0, 0, 0, 0, 0]) false := by decide +kernel

theorem test_supervisionExpiry_enters_safe :
    (after .supervisionExpiry (withSup inRun 1)).ctl.safeCause = .supervision := by decide +kernel

/-! ## The engine's own events -/

theorem test_tick_wraps :
    (after .tick { base with time := { base.time with tick := 0xFFFFFFFF } }).time.tick = 0 := by decide +kernel

/-- The release at tick 500 of 5.6, here at tick 0: taken, and the computation unit starts it. -/
theorem test_release_taken :
    (let s := after (.release 1) (put inRun 1 (dueLoop demo))
     (s.loop 1).status = .running ∧ (s.loop 1).nextRelease = some 5 ∧ s.cu.state = .stage
       ∧ (s.loop 1).alarms.latched = 0b00100) := by decide +kernel

/-- The miss that reaches the limit in 5.6. -/
theorem test_release_reaches_the_miss_limit :
    (let s := after (.release 1) (put inRun 1 { dueLoop { demo with missLimit := 3 } with missCount := 2, status := .due })
     (s.loop 1).state = .faulted ∧ (s.loop 1).missCount = 3 ∧ (s.loop 1).alarms.latched = 0b10010) := by decide +kernel

/-- The stage of the instance clamps to out_max at completion: 3 × 2 000 is above 1 000 (R47). -/
theorem test_stageCompletion_clamps :
    (let s := inStage demo (instanceOf 1 2)
     let t := after .stageCompletion (put s 1 { s.loop 1 with activeBank := Vector.replicate 4 ⟨2000, 0, 0, 0⟩ })
     (t.loop 1).primary = 1000 ∧ (t.loop 1).stats.saturations = 1 ∧ t.cu.state = .idle) := by decide +kernel

/-- An abandoned instance leaves nothing (R104). -/
theorem test_stageCompletion_abandoned :
    (let t := after .stageCompletion (inStage demo { instanceOf 1 2 with abandoned := true })
     (t.loop 1).primary = 0 ∧ (t.loop 1).stats.completions = 0 ∧ t.cu.running = none) := by decide +kernel

/-- Row 3 of 6.7: L5 preempts L7 at its stage boundary. -/
theorem test_preemption_row_3 :
    (let d7 : Definition := { demo with priority := 6, stages := [stageOf .gain, stageOf .gain, stageOf .gain] }
     let s := inStage d7 (instanceOf 7 6)
     let s := put s 5 { loopOf { demo with priority := 4 } .active with status := .due, nextRelease := some 9 }
     let t := after .stageCompletion { s with cu := { s.cu with due := [instanceOf 5 4] } }
     (t.loop 7).status = .suspended ∧ (t.loop 7).stats.preemptions = 1 ∧ (t.loop 5).status = .running
       ∧ t.cu.stack.map (·.nextStage) = [2]) := by decide +kernel

/-! ## Witnesses: the step, resets, engine requests -/

theorem witness_StepCarriesOutTheFrontCommand :
    ({ base with pending := [.tick] } : State).pending = .tick :: [] ∧ base.pending = [] := ⟨rfl, rfl⟩

theorem witness_ResetHoldsThePartUntilStartUp :
    State.reset.power = .inReset ∧ (∀ st, Instr.tick ≠ .powerOnReset st) ∧ (∀ st, Instr.tick ≠ .pinReset st)
      ∧ (∀ b, Instr.tick ≠ .startUp b) ∧ base.power = .running := by simp [State.reset, base]

theorem witness_FullResetGivesTheResetValues :
    base.power = .running ∧ State.reset.power = .inReset ∧ State.reset.ctl.resetCause = .powerOn
      ∧ ({ State.reset with ctl := .reset .pin true } : State).power = .inReset := by decide +kernel

/-- For every statement over accepting states: IdentifyAndClearCauseAnswer, PingAndStatusReadTheEngine,
ReadLoopReturnsTheEntry, ReadCoefAndReadAlarmsReturnWhatStands and the rest. -/
theorem witness_accepting : base.Accepting ∧ inRun.Accepting ∧ mixed.Accepting := by decide +kernel

/-- The premise of the first clause of ConfigureStoresItsFiveSettings. -/
abbrev confBad (n : Byte) (interval : BitVec 16) (window : Byte) (timeout : BitVec 16) (limit : Byte) : Prop :=
  n = 0 ∨ 200 < n.toNat ∨ 60000 < interval.toNat ∨ 16 < window.toNat ∨ timeout = 0 ∨ 1000 < timeout.toNat
    ∨ 7 < limit.toNat

/-- Each field just outside its range, and all at the ends of their ranges. -/
theorem witness_ConfigureStoresItsFiveSettings :
    (confBad 0 0 0 1 0 ∧ confBad 201 0 0 1 0 ∧ confBad 1 60001 0 1 0 ∧ confBad 1 0 17 1 0 ∧ confBad 1 0 0 0 0 ∧ confBad 1 0 0 1001 0
      ∧ confBad 1 0 0 1 8 ∧ ¬confBad 1 0 0 1 0 ∧ ¬confBad 200 60000 16 1000 7)
    ∧ base.Accepting ∧ base.ctl.mode = .safe ∧ inRun.Accepting ∧ inRun.ctl.mode = .run := by
  repeat' apply And.intro
  all_goals decide +kernel

theorem witness_EnterSafeAndResetAreTaken :
    base.Accepting ∧ base.ctl.mode = .safe ∧ inRun.Accepting ∧ inRun.ctl.mode = .run
    ∧ (put inRun 1 (dueLoop demo)).ctl.mode = .run ∧ ((put inRun 1 (dueLoop demo)).loop 1).state = .active := by
  decide +kernel

theorem witness_ResumeEntersRun :
    ((withLink base .mute 128).Accepting ∧ (withLink base .mute 128).link.state = .mute)
    ∧ (inRun.Accepting ∧ inRun.link.state ≠ .mute ∧ inRun.ctl.mode = .run)
    ∧ (base.Accepting ∧ base.link.state ≠ .mute ∧ base.ctl.mode = .safe) := by decide +kernel

theorem witness_SupervisionExpiryEntersSafe :
    (base.power = .running ∧ base.ctl.supTimer = none)
    ∧ ((withSup base 1).power = .running ∧ (withSup base 1).ctl.supTimer ≠ none ∧ (withSup base 1).ctl.mode = .safe)
    ∧ ((withSup (inStage demo (instanceOf 1 2)) 1).ctl.supTimer ≠ none
      ∧ (withSup (inStage demo (instanceOf 1 2)) 1).ctl.mode = .run
      ∧ (withSup (inStage demo (instanceOf 1 2)) 1).cu.state = .stage
      ∧ ((withSup (inStage demo (instanceOf 1 2)) 1).loop 1).state = .active)
    ∧ ((withSup (put inRun 3 (loopOf demo .armed)) 1).cu.state ≠ .stage
      ∧ ((withSup (put inRun 3 (loopOf demo .armed)) 1).loop 3).state = .armed) := by decide +kernel

/-! ## Witnesses: reading requests and samples -/

theorem witness_ReadLoopReturnsTheEntry : base.Accepting ∧ 15 < (0x10 : Byte).toNat := by decide +kernel

theorem witness_ReadCoefAndReadAlarmsReturnWhatStands :
    base.Accepting ∧ 1 < (0x02 : Byte).toNat ∧ 15 < (0x10 : Byte).toNat := by decide +kernel

/-- The range at its ends: 31 and 1 is read, 31 and 2 is not; one pair and sixteen are written, none and seventeen are
not, nor is a pair that names slot 32. -/
theorem witness_SamplesAreReadAndWritten :
    base.Accepting
    ∧ ((31 : Byte).toNat ≤ 31 ∧ (1 : Byte) ≠ 0 ∧ (31 : Byte).toNat + (1 : Byte).toNat ≤ 32)
    ∧ (31 < (32 : Byte).toNat ∧ 32 < (33 : Byte).toNat ∧ 32 < (31 : Byte).toNat + (2 : Byte).toNat)
    ∧ (1 ≤ (List.replicate 16 ((0, 0) : SlotId × Count)).length
      ∧ (List.replicate 16 ((0, 0) : SlotId × Count)).length ≤ 16)
    ∧ (([] : List Byte).length = 3 * (0 : Byte).toNat ∧ 16 < (17 : Byte).toNat)
    ∧ (([0x20, 0, 0] : List Byte).length = 3 * (1 : Byte).toNat
      ∧ 31 < (byteAt ([0x20, 0, 0] : List Byte) (3 * 0)).toNat) := by decide +kernel

/-! ## Witnesses: loop requests -/

theorem demo_legal : demo.Legal := by
  constructor <;> decide +kernel

theorem demo_coefs : LegalCoefs .gain ⟨1, 0, 0, 0⟩ := by
  constructor <;> intro h <;> exact absurd h (by decide)

theorem witness_DefineLoopStoresEveryField :
    base.Accepting ∧ demo.Legal ∧ [(⟨1, 0, 0, 0⟩ : Coefs)].length = demo.stages.length
    ∧ (∀ q ∈ demo.stages.zip [(⟨1, 0, 0, 0⟩ : Coefs)], LegalCoefs q.1.op q.2)
    ∧ (base.loop 5).state = .empty ∧ (mixed.loop 3).state = .idle
    ∧ (mixed.loop 0).state ≠ .empty ∧ (mixed.loop 0).state ≠ .idle := by
  refine ⟨by decide +kernel, demo_legal, rfl, fun q hq => ?_, by decide +kernel⟩
  simp only [demo, List.zip, List.zipWith, List.mem_singleton] at hq
  subst hq
  exact demo_coefs

/-- The payload of L5 with two different non-zero include-secondary and setpoint-from-B bytes, an index byte behind the
absent input B, and one behind a ZERO input A (R174). -/
def oddBytes (flag a b : Byte) : List Byte :=
  ((((demoBytes.set 26 flag).set 31 flag).set 6 0).set 7 a).set 9 b

theorem witness_DefineLoopStoresEveryField_odd :
    base.Accepting ∧ (oddBytes 1 0 0).length = (oddBytes 0xFF 9 7).length
    ∧ ∀ j, byteAt (oddBytes 1 0 0) j = byteAt (oddBytes 0xFF 9 7) j
      ∨ (byteAt (oddBytes 1 0 0) j ≠ 0 ∧ byteAt (oddBytes 0xFF 9 7) j ≠ 0 ∧ (j = 26 ∨ ∃ k, j = 28 + 12 * k + 3))
      ∨ (j = 7 ∧ byteAt (oddBytes 1 0 0) 6 = 0x00)
      ∨ (j = 9 ∧ (byteAt (oddBytes 1 0 0) 8 = 0x00 ∨ byteAt (oddBytes 1 0 0) 8 = 0xFF)) := by
  refine ⟨by decide +kernel, rfl, fun j => ?_⟩
  by_cases h : j = 31
  · subst h
    exact .inr (.inl ⟨by decide +kernel, by decide +kernel, .inr ⟨0, rfl⟩⟩)
  by_cases h40 : j < 40
  · have : ∀ j < 40, j ≠ 31 → byteAt (oddBytes 1 0 0) j = byteAt (oddBytes 0xFF 9 7) j
        ∨ (byteAt (oddBytes 1 0 0) j ≠ 0 ∧ byteAt (oddBytes 0xFF 9 7) j ≠ 0 ∧ j = 26)
        ∨ (j = 7 ∧ byteAt (oddBytes 1 0 0) 6 = 0x00)
        ∨ (j = 9 ∧ (byteAt (oddBytes 1 0 0) 8 = 0x00 ∨ byteAt (oddBytes 1 0 0) 8 = 0xFF)) := by decide +kernel
    rcases this j h40 h with e | ⟨p, q, e⟩ | e | e
    · exact .inl e
    · exact .inr (.inl ⟨p, q, .inl e⟩)
    · exact .inr (.inr (.inl e))
    · exact .inr (.inr (.inr e))
  · have : ∀ f a b, (oddBytes f a b).length = 40 := fun f a b => by simp [oddBytes, demoBytes]
    exact .inl (by simp [byteAt, this, Nat.le_of_not_lt h40])

/-- A flag byte of FFh counts as set, and the ignored index bytes are stored as 0 (R174). -/
theorem test_defineLoop_normalises :
    (let l := (after (.defineLoop 9 (oddBytes 0xFF 9 7)) base).loop 5
     l.definition = some { demo with inputA := .zero, includeSecondary := true, stages := [⟨.gain, 0, 0, true⟩] })
    ∧ after (.defineLoop 9 (oddBytes 0xFF 9 7)) base = after (.defineLoop 9 (oddBytes 1 0 0)) base := by decide +kernel

/-- One byte or two of the payload changed, each to a value just outside its range; 28 and 36 are in the stage. -/
def badEdits : List (List (Nat × Byte)) :=
  [[(0, 16)], [(1, 8)], [(3, 0)], [(5, 5)], [(6, 4)], [(7, 32)], [(6, 2), (7, 16)], [(6, 3), (7, 16)], [(8, 4)],
    [(8, 1), (9, 32)], [(11, 0x7F)], [(15, 0x80)], [(15, 0x7F)], [(17, 2)], [(18, 3)], [(22, 2)], [(23, 4)],
    [(23, 1), (25, 1)], [(23, 1), (24, 1)], [(23, 2)], [(27, 32)], [(28, 0)], [(28, 9)], [(30, 16)], [(29, 3)],
    [(28, 3), (32, 0x80)], [(28, 8), (32, 0), (33, 1)]]

def edited (e : List (Nat × Byte)) : List Byte := e.foldl (fun p q => p.set q.1 q.2) demoBytes

/-- Every premise of DefineLoopRefusesBadFields, met by each edit; and the two stage counts of the right length. -/
theorem witness_DefineLoopRefusesBadFields :
    ∀ p ∈ badEdits.map edited ++ [(demoBytes.set 10 0).take 28, demoBytes.set 10 5 ++ List.replicate 48 0],
      let b (j : Nat) : Nat := (byteAt p j).toNat
      let w (j : Nat) : Nat := (word16At p j).toNat
      let sw (j : Nat) : Int := (word16At p j).toInt
      let badBinding (f x : Nat) : Prop :=
        3 < f ∨ (f = 1 ∧ 31 < x) ∨ (f = 2 ∧ 15 < x) ∨ (f = 3 ∧ 15 < x)
      let badStage (e : Nat) : Prop :=
        b e = 0 ∨ 8 < b e ∨ 15 < b (e + 2) ∨ (b e = 1 ∧ 2 < b (e + 1))
          ∨ (b e = 3 ∧ sw (e + 4) < 0) ∨ (b e = 8 ∧ sw (e + 6) < sw (e + 4))
      11 ≤ p.length ∧ p.length = 28 + 12 * b 10 ∧
      (15 < b 0 ∨ 7 < b 1 ∨ w 2 = 0 ∨ w 2 ≤ w 4 ∨ badBinding (b 6) (b 7) ∨ (b 8 ≠ 255 ∧ badBinding (b 8) (b 9))
        ∨ b 10 = 0 ∨ 4 < b 10 ∨ sw 13 < sw 11 ∨ sw 15 < sw 11 ∨ sw 13 < sw 15
        ∨ 1 < b 17 ∨ 2 < b 18 ∨ 1 < b 22 ∨ 3 < b 23 ∨ (b 23 = 1 ∧ (w 24 < 2 ∨ 255 < w 24))
        ∨ (b 23 = 2 ∧ w 24 = 0) ∨ 31 < b 27 ∨ ∃ k, k < b 10 ∧ badStage (28 + 12 * k)) := by
  decide +kernel

/-- Each of those payloads is refused with BAD_FIELD (R13). -/
theorem test_defineLoop_refuses_each :
    ∀ p ∈ badEdits.map edited, answer (after (.defineLoop 9 p) base) = [0x03] := by decide +kernel

theorem witness_ArmAndUnholdArmTheNamedLoops :
    mixed.Accepting
    ∧ ((0x0018 : LoopMask) ≠ 0 ∧ ∀ i, names 0x0018 i = true →
      (mixed.loop i).state = .idle ∨ (mixed.loop i).state = .armed ∨ (mixed.loop i).state = .faulted)
    ∧ ((0x0002 : LoopMask) ≠ 0 ∧ ∀ i, names 0x0002 i = true → (mixed.loop i).state = .held .host) := by
  decide +kernel

/-- L1 in a stage of its instance, L3 armed, L4 idle, flags latched, a report in flight, a request waiting behind a
full response queue, and LEC 70. -/
def busyPart : State :=
  let s := put (put (inStage demo (instanceOf 1 2)) 3 { loopOf demo .armed with nextRelease := some 2 }) 4 (loopOf demo .idle)
  let s := put s 1 { s.loop 1 with alarms := ⟨0b00101, 0b11111, 0⟩ }
  { s with
    alertN := .low
    rep := { s.rep with store := [outputEntry 1 (.sent 0), outputEntry 1 .queued], nextRsn := 1, retryTimer := some 50 }
    link := { s.link with
      lec := 70, state := .warn, tx := .sending [] false, slots := [pingFrame], responses := List.replicate 4 aResponse }
    pending := [.stageCompletion] }

/-- The same, with room for the dispatcher to take a request. -/
def openPart : State := { busyPart with link := { busyPart.link with slots := [], responses := [] } }

theorem openPart_modeInv : ModeInv openPart := by
  constructor <;> decide +kernel

theorem openPart_unitInv : UnitInv openPart where
  activeOnly := by decide +kernel
  dueStatus := by decide +kernel
  stackStatus := by decide +kernel
  runningStatus := show ∀ i, (openPart.loop i).status = .running ↔
      ∃ x ∈ openPart.cu.running, x.abandoned = false ∧ x.loop = i by decide +kernel
  dueOnce := by decide +kernel
  stackOnce := by decide +kernel
  stackDepth := by decide +kernel
  stackOrder := by decide +kernel
  runningOrder := show ∀ x ∈ openPart.cu.running, ∀ y ∈ openPart.cu.stack, (x.priority : Nat) < (y.priority : Nat) by
    decide +kernel
  idleEmpty := by decide +kernel
  stageRunning := by decide +kernel
  choiceLive := show openPart.cu.state = .choice → ∀ x ∈ openPart.cu.running, x.abandoned = false by decide +kernel
  waitingLive := by decide +kernel
  stageInProgram := show ∀ x ∈ openPart.cu.live, ∃ d ∈ (openPart.loop x.loop).definition, x.priority = d.priority
      ∧ 1 ≤ x.nextStage ∧ x.nextStage ≤ d.stages.length by decide +kernel
  programLength := show ∀ i, ∀ d ∈ (openPart.loop i).definition, 1 ≤ d.stages.length ∧ d.stages.length ≤ 4 by
    decide +kernel

theorem openPart_loopInv : LoopInv openPart := ⟨openPart_modeInv, openPart_unitInv⟩

theorem witness_HoldLoopHoldsTheNamedLoops :
    openPart.Accepting ∧ LoopInv openPart ∧ (0x000A : LoopMask) ≠ 0
    ∧ (∀ i, names 0x000A i = true → (openPart.loop i).state = .armed ∨ (openPart.loop i).state = .active
      ∨ (openPart.loop i).state = .held .host ∨ (openPart.loop i).state = .held .safe)
    ∧ ((openPart.loop 1).definition = some demo ∧ demo.reportMode ≠ .silent)
    ∧ (let d : Definition := { demo with reportMode := .silent }
       ((put base 1 (loopOf d .active)).loop 1).definition = some d ∧ d.reportMode = .silent) := by
  refine ⟨by decide +kernel, openPart_loopInv, by decide +kernel⟩

theorem witness_ClearLoopEmptiesTheNamedLoops :
    openPart.Accepting ∧ LoopInv openPart ∧ (0x0006 : LoopMask) ≠ 0
    ∧ (names 0x0006 1 = true ∧ (openPart.loop 1).state ≠ .empty)
    ∧ (names 0x0006 2 = true ∧ (openPart.loop 2).state = .empty) := by
  refine ⟨by decide +kernel, openPart_loopInv, by decide +kernel⟩

/-- A PID stage preset at the ends of its ranges. -/
theorem witness_PresetLoopWritesTheNamedStages :
    (let d : Definition := { demo with stages := [stageOf .pid] }
     let qs : List PresetEntry := [⟨1, BitVec.ofInt 32 (-134213632), 65535, 7⟩]
     let s (st : LoopState) : State := put inRun 3 (loopOf d st)
     ((s .idle).Accepting ∧ ((s .idle).loop 3).definition = some d ∧ qs.length ≤ 4
      ∧ (qs.map fun q => q.index).Nodup
      ∧ ∀ q ∈ qs, 1 ≤ q.index ∧ q.index ≤ 4 ∧ ∃ st, d.stages[q.index - 1]? = some st ∧ PresetInRange st.op q)
     ∧ (d.outMin.toInt ≤ d.outMin.toInt ∧ d.outMin.toInt ≤ d.outMax.toInt)
     ∧ ¬(d.outMin.toInt ≤ (1001 : Count).toInt ∧ (1001 : Count).toInt ≤ d.outMax.toInt)
     ∧ ((s .faulted).Accepting ∧ ((s .faulted).loop 3).state = .faulted)
     ∧ ((s .idle).loop 3).state ≠ .active ∧ ((s .idle).loop 3).state ≠ .faulted) := by
  refine ⟨⟨by decide +kernel, by decide +kernel, by decide +kernel, by decide +kernel, ?_⟩, by decide +kernel⟩
  intro q hq
  rw [List.mem_singleton] at hq
  subst hq
  exact ⟨by decide, by decide, stageOf .pid, rfl, by simp only [PresetInRange, stageOf]; decide +kernel⟩

/-- A PRESET_LOOP payload of the length its count gives, and a list of presets that is legal in itself: the premises
of the refusals of PresetLoopWritesTheNamedStages. -/
abbrev presetSized (p : List Byte) : Prop := 4 ≤ p.length ∧ p.length = 4 + 13 * (byteAt p 3).toNat

abbrev presetIndex (p : List Byte) (k : Nat) : Nat := (byteAt p (4 + 13 * k)).toNat

abbrev presetListed (p : List Byte) : Prop :=
  (byteAt p 0).toNat ≤ 15 ∧ (byteAt p 3).toNat ≤ 4 ∧ (∀ k, k < (byteAt p 3).toNat → presetIndex p k ≠ 0)
    ∧ ∀ k, k < (byteAt p 3).toNat → ∀ j, j < k → presetIndex p j ≠ presetIndex p k

def presetOf (k : Byte) (word1 : List Byte) : List Byte := k :: word1 ++ List.replicate 8 0

/-- A loop of 16, five presets, a stage index of 0, and a stage named twice. -/
theorem witness_PresetLoopWritesTheNamedStages_unlisted :
    ∀ p ∈ [[16, 0, 0, 0], [3, 0, 0, 5] ++ List.replicate 65 1, [3, 0, 0, 1] ++ presetOf 0 [0, 0, 0, 0],
        [3, 0, 0, 2] ++ presetOf 1 [0, 0, 0, 0] ++ presetOf 1 [0, 0, 0, 0]],
      presetSized p ∧ ¬presetListed p := by decide +kernel

/-- For L3 with a PID and a GAIN stage: a stage index of 3, the op without memory words, word 1 of PID just above its
range, and a primary just above out_max; and L2 EMPTY. -/
theorem witness_PresetLoopWritesTheNamedStages_refusals :
    (let d : Definition := { demo with stages := [stageOf .pid, stageOf .gain] }
     let s : State := put base 3 (loopOf d .idle)
     let beyond := [3, 0, 0, 1] ++ presetOf 3 [0, 0, 0, 0]
     let noWords := [3, 0, 0, 1] ++ presetOf 2 [0, 0, 0, 0]
     let high := [3, 0, 0, 1] ++ presetOf 1 [0x07, 0xFF, 0xF0, 0x01]
     (s.Accepting ∧ (s.loop 3).definition = some d ∧ (s.loop 2).definition = none)
     ∧ (∀ p ∈ [beyond, noWords, high, [3, 0x03, 0xE9, 0], [2, 0, 0, 0]], presetSized p ∧ presetListed p)
     ∧ d.stages.length < presetIndex beyond 0
     ∧ d.stages[presetIndex noWords 0 - 1]? = some (stageOf .gain)
     ∧ d.stages[presetIndex high 0 - 1]? = some (stageOf .pid)
     ∧ 134213632 < (word32At high 5).toInt
     ∧ d.outMax.toInt < (word16At [3, 0x03, 0xE9, 0] 1).toInt) := by decide +kernel

/-! ## Witnesses: coefficients and alarms -/

theorem witness_CoefficientsAreLoadedAndCommitted :
    (let s (l : LoopEntry) : State := put base 3 l
     let lpf : Definition := { demo with stages := [stageOf .lpf] }
     (base.Accepting ∧ (base.loop 3).definition = none)
     ∧ ((s (loopOf demo .idle)).Accepting ∧ ((s (loopOf demo .idle)).loop 3).definition = some demo
        ∧ demo.stages[1]? = none ∧ demo.stages[0]? = some (stageOf .gain))
     ∧ (((s (loopOf lpf .idle)).loop 3).definition = some lpf ∧ lpf.stages[0]? = some (stageOf .lpf)
        ∧ ¬LegalCoefs .lpf ⟨-1, 0, 0, 0⟩)
     ∧ (LegalCoefs .gain ⟨1, 0, 0, 0⟩
        ∧ ((s { loopOf demo .idle with commitPending := true }).loop 3).commitPending = true
        ∧ ((s (loopOf demo .idle)).loop 3).commitPending = false)
     ∧ ((0x0009 : LoopMask) ≠ 0 ∧ ∀ i, names 0x0009 i = true → (mixed.loop i).state ≠ .empty)) := by
  refine ⟨by decide +kernel, by decide +kernel, ⟨by decide +kernel, by decide +kernel, fun h => ?_⟩,
    ⟨demo_coefs, by decide +kernel⟩, by decide +kernel⟩
  exact absurd (h.1 rfl) (by decide +kernel)

/-- A loop of 16, stage indices of 0 and 5, and an action byte of 2. -/
theorem witness_CoefficientsAreLoadedAndCommitted_refusals :
    (let p (i k : Byte) : List Byte := [i, k] ++ List.replicate 8 0
     base.Accepting ∧ base.Receiving ∧ 1 < (2 : Byte).toNat
     ∧ ((p 16 1).length = 10 ∧ 15 < (byteAt (p 16 1) 0).toNat)
     ∧ ((p 3 0).length = 10 ∧ byteAt (p 3 0) 1 = 0)
     ∧ ((p 3 5).length = 10 ∧ 4 < (byteAt (p 3 5) 1).toNat)) := by decide +kernel

/-- Latched flags enabled with room in the store and without it, none enabled, and flag masks of 32 and of 0. -/
theorem witness_ClearAndMaskAlarmsAreTaken :
    openPart.Accepting ∧ (0x0002 : LoopMask) ≠ 0 ∧ (0b00001 : FlagSet) ≠ 0
    ∧ (∀ i, names 0x0002 i = true → (openPart.loop i).state ≠ .empty)
    ∧ (let s := put openPart 1 { openPart.loop 1 with alarms := ⟨0b00101, 0b11110, 0⟩ }
       s.Accepting ∧ (0b00001 : FlagSet) &&& ~~~(s.loop 1).alarms.mask &&& (s.loop 1).alarms.latched ≠ 0
       ∧ (0b00100 : FlagSet) &&& ~~~(s.loop 1).alarms.mask &&& (s.loop 1).alarms.latched = 0
       ∧ s.rep.store.length < 22
       ∧ (let full := withStore s (List.replicate 22 (outputEntry 9 (.sent 3)))
          ¬(full.rep.store.length < 22 ∨ ∃ e ∈ full.rep.store, e.queuedAlarmOf 1 = true)))
    ∧ 31 < (32 : Byte).toNat ∧ (0 : Byte) = 0 := by decide +kernel

/-- In the loops of example 1.7, with L5 HELD(SAFE), each check fails for some loop. -/
theorem witness_MaskRequestsRefuseAllOrNothing :
    (let s := put mixed 5 (loopOf demo (.held .safe))
     s.Accepting
     ∧ (∃ i, names 0x0004 i = true ∧ (s.loop i).state = .empty)
     ∧ (¬(∃ i, names 0x0001 i = true ∧ (s.loop i).state = .empty) ∧ ∃ i, names 0x0001 i = true ∧ (s.loop i).state = .active)
     ∧ (¬(∃ i, names 0x0008 i = true ∧ (s.loop i).state = .empty) ∧ ∃ i, names 0x0008 i = true ∧ (s.loop i).state = .idle)
     ∧ (¬(∃ i, names 0x0020 i = true ∧ (s.loop i).state = .empty) ∧ ∃ i, names 0x0020 i = true ∧ (s.loop i).state = .held .safe)
     ∧ (¬(∃ i, names 0x0010 i = true ∧ (s.loop i).state = .held .safe)
        ∧ ∃ i, names 0x0010 i = true ∧ (s.loop i).state = .faulted)
     ∧ (0x1F : Byte).toNat < 32) := by decide +kernel

/-! ## Witnesses: the way of a request -/

theorem witness_UnknownKindsAndWrongLengthsAreRefused :
    base.Accepting
    ∧ (0x09 : Byte) ∉ ([0x01, 0x02, 0x03, 0x04, 0x05, 0x06, 0x07, 0x08, 0x10, 0x11, 0x12, 0x13, 0x14, 0x15, 0x16,
        0x18, 0x19, 0x1A, 0x20, 0x21, 0x28, 0x29, 0x2A] : List Byte)
    ∧ requestFrame (.ping 1 [0]) = some ⟨0x04, 1, [0]⟩
    ∧ requestFrame (.defineLoop 1 (demoBytes ++ [0])) = some ⟨0x10, 1, demoBytes ++ [0]⟩
    ∧ (demoBytes ++ [0]).length ≠ 28 + 12 * (byteAt (demoBytes ++ [0]) 10).toNat
    ∧ requestFrame (.maskAlarms 1 [0, 1]) = some ⟨0x2A, 1, [0, 1]⟩ ∧ ([0, 1] : List Byte).length ≠ 3 := by
  decide +kernel

theorem witness_RequestsWaitOrOverrun :
    requestFrame (.ping 1 []) = some pingFrame
    ∧ ((withResponses base (List.replicate 4 aResponse)).power = .running
      ∧ 4 ≤ (withResponses base (List.replicate 4 aResponse)).link.responses.length
      ∧ (withResponses base (List.replicate 4 aResponse)).link.slots.length < 4)
    ∧ (let s : State := { withSlots base (List.replicate 4 pingFrame) with ctl := { base.ctl with resetPending := true } }
       s.power = .running ∧ s.ctl.resetPending = true ∧ 4 ≤ s.link.slots.length) := by decide +kernel

/-- A store whose first report stands on offer. -/
def offering : State := withStore base [outputEntry 2 .queued]

theorem witness_ResponsesReachTheTransmitter :
    (busy base).link.tx ≠ .idle
    ∧ (base.link.tx = .idle ∧ base.link.responses = [] ∧ base.rep.take = none)
    ∧ (offering.link.tx = .idle ∧ offering.link.responses = [] ∧ offering.link.startUpHold = false
      ∧ offering.link.state ≠ .mute ∧ ∃ e u, offering.rep.take = some (e, u)) :=
  ⟨by decide +kernel, by decide +kernel, by decide +kernel, by decide +kernel, by decide +kernel, by decide +kernel,
    _, _, rfl⟩

/-- A RESEND entry in a window of 1, a QUEUED entry with one entry in flight below a window of 2, and nothing in a
window of 0. -/
theorem witness_FirstEligibleReportIsTaken :
    (let u (l : List ReportEntry) (w : Nat) : ReportUnit := { base.rep with store := l, window := w }
     ((u [outputEntry 2 (.resend 7)] 1).store = [] ++ outputEntry 2 (.resend 7) :: []
      ∧ (outputEntry 2 (.resend 7)).state = .resend 7 ∧ 0 < (u [outputEntry 2 (.resend 7)] 1).window)
     ∧ ((u [outputEntry 2 (.sent 7), outputEntry 5 .queued] 2).store
          = [outputEntry 2 (.sent 7)] ++ outputEntry 5 .queued :: []
      ∧ (outputEntry 5 .queued).state = .queued ∧ (∀ x ∈ [outputEntry 2 (.sent 7)], x.state ≠ .queued)
      ∧ rsnHolders [outputEntry 2 (.sent 7), outputEntry 5 .queued] < 2)
     ∧ ((u [outputEntry 5 .queued] 0).window = 0
      ∧ (u [outputEntry 5 .queued] 0).window ≤ rsnHolders (u [outputEntry 5 .queued] 0).store)) := by decide +kernel

/-- Entries that hold an RSN, so that they have a frame. -/
theorem witness_FirstEligibleReportIsTaken_holds :
    (outputEntry 2 (.sent 7)).holds 7 ∧ (outputEntry 2 (.resend 7)).holds 7 := ⟨.inl rfl, .inr rfl⟩

/-- No entry of that store is RESEND, as the second and third clauses ask. -/
theorem witness_FirstEligibleReportIsTaken_noResend :
    ∀ x ∈ [outputEntry 2 (.sent 7), outputEntry 5 .queued], ∀ q, x.state ≠ .resend q := by
  intro x hx q
  simp only [List.mem_cons, List.not_mem_nil, or_false] at hx
  rcases hx with rfl | rfl <;> simp [outputEntry]

/-- A good frame of kind 40h removes the entry it acknowledges (R158, R146). -/
theorem test_goodFrame_of_kind_40h :
    (after (.goodFrame 0x40 0 [7, 2]) (withStore (busy base) [outputEntry 2 (.sent 7)])).rep.store = [] := by
  decide +kernel

/-- In each link state, and with the slots filled. -/
theorem witness_GoodFramesReachTheSlots :
    (requestFrame (.ping 1 []) = some pingFrame ∧ pingFrame.kind ≠ 0x40)
    ∧ (∀ st ∈ [LinkState.ok, .warn, .mute], (withLink base st 64).Receiving ∧ (withLink base st 64).link.slots.length < 4)
    ∧ (let s := withSlots (withResponses base (List.replicate 4 aResponse)) (List.replicate 4 pingFrame)
       s.Receiving ∧ s.link.state = .ok ∧ 4 ≤ s.link.slots.length ∧ 4 ≤ s.link.responses.length) := by decide +kernel

theorem witness_LecFallsByOneAtAGoodFrame :
    ([] : List Byte).length ≠ 2 ∧ 16 < (byteAt ([0, 17] : List Byte) 1).toNat
    ∧ ((withLink base .ok 0).Receiving ∧ (withLink base .ok 64).link.state = .ok)
    ∧ ((withLink base .warn 65).Receiving ∧ (withLink base .warn 65).link.state = .warn
      ∧ 65 ≤ (withLink base .warn 65).link.lec.toNat ∧ (withLink base .warn 65).link.lec.toNat ≤ 128)
    ∧ ((withLink base .warn 64).Receiving ∧ (withLink base .warn 64).link.state = .warn
      ∧ (withLink base .warn 64).link.lec.toNat ≤ 64)
    ∧ ((withLink base .mute 64).Receiving ∧ (withLink base .mute 64).link.state = .mute
      ∧ (withLink base .mute 64).link.lec.toNat ≤ 64)
    ∧ ((withLink base .mute 65).link.state = .mute ∧ 65 ≤ (withLink base .mute 65).link.lec.toNat)
    ∧ (requestFrame (.ping 1 []) = some pingFrame ∧ pingFrame.kind ≠ 0x40 ∧ (withLink base .mute 64).link.slots.length < 4)
    ∧ ((16 : Byte).toNat ≤ 16 ∧ (withLink base .warn 64).rep.store = []) := by decide +kernel

/-- An RSN held, in each link state, with nothing owed and with an owed event and an owed ALARM report; and none
held. -/
theorem witness_AcknowledgementRemovesReports :
    (let s (st : LinkState) : State := withLink (withStore base [outputEntry 2 (.sent 7), outputEntry 5 (.sent 8)]) st 70
     (16 : Byte).toNat ≤ 16
      ∧ (∀ st ∈ [LinkState.warn, .mute], (s st).Receiving
        ∧ (s st).goodArrival.rep.store = [] ++ outputEntry 2 (.sent 7) :: [outputEntry 5 (.sent 8)])
      ∧ (s .warn).goodArrival.rep.engineOwed = [] ∧ ∀ i, ((s .warn).loop i).alarms.owed = 0)
    ∧ (let s := withStore (put base 1 { loopOf demo .idle with alarms := ⟨1, 1, 1⟩ })
          (List.replicate 24 (outputEntry 2 (.sent 7)))
       let s := { s with rep := { s.rep with engineOwed := [.linkOk] } }
       s.Receiving ∧ s.goodArrival.rep.store = [] ++ outputEntry 2 (.sent 7) :: List.replicate 23 (outputEntry 2 (.sent 7))
        ∧ s.goodArrival.rep.engineOwed = [.linkOk])
    ∧ (outputEntry 2 (.sent 7)).holds 7 ∧ (∀ x ∈ base.rep.store, ¬x.holds 7) :=
  ⟨by decide +kernel, by decide +kernel, .inl rfl, fun _ h => absurd h (List.not_mem_nil)⟩

/-- Each error at each boundary of the link state: 55 and 56, 119 and 120 with 8; 59 and 60 with 4. -/
theorem witness_LineErrorsRaiseTheLec :
    (withLink base .ok 55).Receiving ∧ (withRx base (.header [])).Receiving
    ∧ (withRx base (.header [])).link.gapTimer = .running ∧ (withRx base (.header [])).link.rx ≠ .hunt
    ∧ ((withLink base .ok 55).link.state = .ok ∧ min 255 ((withLink base .ok 55).link.lec.toNat + 8) ≤ 63)
    ∧ ((withLink base .ok 56).link.state = .ok ∧ 64 ≤ min 255 ((withLink base .ok 56).link.lec.toNat + 8)
      ∧ min 255 ((withLink base .ok 56).link.lec.toNat + 8) ≤ 127)
    ∧ ((withLink base .warn 119).link.state = .warn ∧ min 255 ((withLink base .warn 119).link.lec.toNat + 8) ≤ 127)
    ∧ ((withLink base .warn 120).link.state ≠ .mute ∧ 128 ≤ min 255 ((withLink base .warn 120).link.lec.toNat + 8))
    ∧ ((withLink base .mute 255).link.state = .mute ∧ 64 ≤ min 255 ((withLink base .mute 255).link.lec.toNat + 4)) := by
  decide +kernel

theorem witness_LowLineTakesNoBytes :
    base.Receiving ∧ base.link.rx = .hunt ∧ (1 : Byte) ≠ 0
    ∧ ((after (.framingError 0) base).power = .running ∧ (after (.framingError 0) base).link.rxd ≠ .taking
      ∧ (after (.framingError 0) base).link.rx = .hunt)
    ∧ (let s := after (.framingError 0) (withRx base (.header []))
       s.power = .running ∧ s.link.rxd = .undecided ∧ s.link.rx ≠ .hunt ∧ s.link.gapTimer ≠ .running) := by
  decide +kernel

def resetResponse : Response := ⟨0x87, 1, [0x00], true⟩

theorem witness_BreakStartsTheLinkAfresh :
    base.power = .running ∧ base.link.rxd ≠ .breakLow ∧ (∀ r ∈ base.link.responses, r.ofReset = false)
    ∧ (after (.lineBreak 0) base).link.rxd = .breakLow
    ∧ ((withResponses (busy base) [resetResponse]).link.rxd ≠ .breakLow
      ∧ ∃ r ∈ (withResponses (busy base) [resetResponse]).link.responses, r.ofReset = true) := by decide +kernel

theorem witness_StartUpHoldEndsOnAnIdleLine :
    base.Receiving ∧ base.link.startUpHold = false
    ∧ (after (.startUp false) State.reset).Receiving ∧ (after (.startUp false) State.reset).link.startUpHold = true := by
  decide +kernel

theorem witness_FrameEndChoosesTheNextFrame :
    base.link.tx = .idle ∧ (withTx base (.sending [] true)).link.tx = .sending [] true
    ∧ (let s := withResponses (busy base) [aResponse]
       s.power = .running ∧ s.link.tx = .sending [] false ∧ s.link.responses = aResponse :: [] ∧ s.link.slots = [])
    ∧ (let s := withSlots (withResponses (busy base) (List.replicate 4 aResponse)) [pingFrame]
       s.link.responses = aResponse :: List.replicate 3 aResponse ∧ (List.replicate 3 aResponse).length < 4
        ∧ s.link.slots = [pingFrame] ∧ requestFrame (.ping 1 []) = some pingFrame ∧ s.ctl.resetPending = false)
    ∧ (let s := withSlots (withResponses (busy base) (List.replicate 4 aResponse)) [pingFrame, pingFrame, pingFrame]
       (List.replicate 3 aResponse).length = 3 ∧ s.link.slots = pingFrame :: [pingFrame, pingFrame]
        ∧ s.ctl.resetPending = false
        ∧ ({ s with ctl := { s.ctl with resetPending := true } } : State).ctl.resetPending = true)
    ∧ ((busy base).link.responses = [] ∧ (busy base).link.slots = [] ∧ (busy base).rep.take = none) := by
  decide +kernel

theorem witness_FrameEndChoosesTheNextFrame_report :
    (busy offering).link.startUpHold = false ∧ (busy offering).link.state ≠ .mute
    ∧ ∃ e u, (busy offering).rep.take = some (e, u) := ⟨rfl, by decide, _, _, rfl⟩

/-- Every receiver state, and a frame whose check bytes agree. -/
theorem witness_ReceiverTreatsEachByte :
    base.Receiving ∧ base.link.rx = .hunt ∧ (withRx base (.header [])).Receiving
    ∧ (withRx base (.header [4, 1])).link.rx = .header [4, 1] ∧ (240 : Byte).toNat ≤ 240 ∧ 240 < (241 : Byte).toNat
    ∧ (withRx base (.body 4 1 2 [])).link.rx = .body 4 1 2 [] ∧ ([] : List Byte).length + 1 < (2 : Byte).toNat
    ∧ (2 : Byte).toNat ≤ ([0] : List Byte).length + 1
    ∧ (withRx base (.check 4 1 [] none)).link.rx = .check 4 1 [] none
    ∧ crc16 (4 :: 1 :: natByte ([] : List Byte).length :: []) = (0x23 : Byte) ++ (0x6D : Byte)
    ∧ crc16 (4 :: 1 :: natByte ([] : List Byte).length :: []) ≠ (0x00 : Byte) ++ (0x00 : Byte) := by decide +kernel

theorem witness_FramesAreReadByteByByte :
    base.Receiving ∧ base.link.rx = .hunt ∧ (List.replicate 240 (0 : Byte)).length ≤ 240 := by decide +kernel

/-! ## Witnesses: ticks, releases, stages -/

theorem base_nothing_due : ∀ i d, ¬base.FallsDue i d := by
  intro i d h
  have hn : ∀ i, (base.loop i).nextRelease = none := by decide +kernel
  have := hn i
  rw [h.2.2.1] at this
  cases this

def written (s : State) : State := { s with samples := s.samples.set 3 { value := 9, stamp := 0, written := true } }

theorem dueAlone (d : Definition) : ∀ j e, (put inRun 1 (dueLoop d)).FallsDue j e → j = 1 := by
  intro j e h
  by_contra hne
  have hl : (put inRun 1 (dueLoop d)).loop j = inRun.loop j := by
    have h' : (1 : Nat) ≠ j := fun e => hne (Fin.ext e.symm)
    simp [put, State.loop, h']
  have : (inRun.loop j).nextRelease = none := by clear hl h hne; revert j; decide +kernel
  have h3 := h.2.2.1
  rw [hl, this] at h3
  cases h3

theorem witness_TickRaisesTheTickCount :
    base.power = .running ∧ (∀ i d, ¬base.FallsDue i d)
    ∧ (put inRun 1 (dueLoop demo)).FallsDue 1 demo ∧ 0 < demo.period.toNat
    ∧ ∀ j e, (put inRun 1 (dueLoop demo)).FallsDue j e → j = 1 :=
  ⟨rfl, base_nothing_due, by decide +kernel, by decide +kernel, dueAlone demo⟩

theorem witness_TakenReleaseCreatesAnInstance :
    (let s := written (put inRun 1 (dueLoop demo))
     s.FallsDue 1 demo ∧ (s.loop 1).status = .noInstance ∧ ¬s.StaleRelease demo) := by
  refine ⟨by decide +kernel, by decide +kernel, ?_⟩
  rintro (h | ⟨b, hb, -⟩)
  · change _ ∨ _ at h
    revert h
    decide +kernel
  · cases hb

/-- A miss below the limit, and the miss that reaches a limit of 1, with the instance in each place. -/
theorem witness_MissedReleaseLeavesTheInstance :
    (let s (d : Definition) (st : InstanceStatus) : State := put inRun 1 { dueLoop d with status := st }
     let one : Definition := { demo with missLimit := 1 }
     ((s demo .due).FallsDue 1 demo ∧ ((s demo .due).loop 1).status ≠ .noInstance
      ∧ ¬(demo.missLimit ≠ 0 ∧ satInc ((s demo .due).loop 1).missCount = demo.missLimit))
     ∧ ((s one .due).FallsDue 1 one ∧ ((s one .due).loop 1).status = .due
      ∧ one.missLimit ≠ 0 ∧ satInc ((s one .due).loop 1).missCount = one.missLimit)
     ∧ ((s one .suspended).FallsDue 1 one ∧ ((s one .suspended).loop 1).status = .suspended)
     ∧ (let t := inStage one (instanceOf 1 2)
        let t := put t 1 { t.loop 1 with nextRelease := some 0 }
        t.FallsDue 1 one ∧ (t.loop 1).status = .running ∧ t.cu.running = some (instanceOf 1 2)
         ∧ (instanceOf 1 2).loop = 1 ∧ t.cu.state = .stage)) := by decide +kernel

theorem witness_MissedReleaseLeavesTheInstance_notDue : base.power = .running ∧ ∀ d, ¬base.FallsDue 0 d :=
  ⟨rfl, base_nothing_due 0⟩

/-- An unwritten slot is stale under each policy. -/
theorem witness_StaleReleaseFollowsThePolicy :
    ∀ p : StalePolicy,
      (put inRun 1 (dueLoop { demo with stalePolicy := p })).FallsDue 1 { demo with stalePolicy := p }
      ∧ ((put inRun 1 (dueLoop { demo with stalePolicy := p })).loop 1).status = .noInstance
      ∧ (put inRun 1 (dueLoop { demo with stalePolicy := p })).StaleRelease { demo with stalePolicy := p } := by
  intro p
  refine ⟨?_, ?_, .inl (.inl ?_)⟩
  · cases p <;> decide +kernel
  · cases p <;> decide +kernel
  · rfl

/-- A stage in the middle, the last stage, an ARITH fault, an abandoned instance, and no stage. -/
theorem witness_StageCompletionEntersOrWrites :
    (let two : Definition := { demo with stages := [stageOf .gain, stageOf .gain] }
     let div : Definition := { demo with stages := [stageOf .div], arithPolicy := .fault }
     (base.power = .running ∧ base.cu.state ≠ .stage)
     ∧ ((inStage demo { instanceOf 1 2 with abandoned := true }).cu.state = .stage
       ∧ (inStage demo { instanceOf 1 2 with abandoned := true }).cu.running
           = some { instanceOf 1 2 with abandoned := true })
     ∧ (let s := inStage two (instanceOf 1 2)
        s.power = .running ∧ s.cu.state = .stage ∧ s.cu.running = some (instanceOf 1 2)
         ∧ (instanceOf 1 2).abandoned = false ∧ (s.loop 1).definition = some two ∧ 1 ≤ (instanceOf 1 2).nextStage
         ∧ two.stages[0]? = some (stageOf .gain) ∧ (s.loop 1).status = .running
         ∧ (instanceOf 1 2).nextStage < two.stages.length)
     ∧ ((inStage demo (instanceOf 1 2)).cu.running = some (instanceOf 1 2)
        ∧ ((inStage demo (instanceOf 1 2)).loop 1).definition = some demo
        ∧ (instanceOf 1 2).nextStage = demo.stages.length ∧ demo.outMin.toInt ≤ demo.outMax.toInt
        ∧ demo.stages[0]? = some (stageOf .gain) ∧ demo.arithPolicy = .proceed)
     ∧ (((inStage div (instanceOf 1 2)).loop 1).definition = some div ∧ div.stages[0]? = some (stageOf .div)
        ∧ (runStage (stageOf .div) ⟨0, 0, 0, 0⟩ ⟨0, 0, 0, false⟩ 3 0).arith = true ∧ div.arithPolicy = .fault)) := by
  decide +kernel

/-- The rows of the choice tables: everything empty, each of the two alone, both with either one ahead, and a stage
boundary with and without preemption. -/
theorem witness_ChoiceAndDueQueueOrder :
    (let s (due stack : List Instance) (x : Option Instance) : State :=
       { inRun with cu := { state := .choice, due := due, running := x, stack := stack } }
     let a := instanceOf 1 2
     let b := instanceOf 5 1
     base.cu.state ≠ .choice
     ∧ ((s [] [] none).cu.state = .choice ∧ ∀ i, ((s [] [] none).loop i).nextRelease ≠ some (s [] [] none).time.tick)
     ∧ (∃ i, ((put (s [a] [] none) 1 (dueLoop demo)).loop i).nextRelease = some (put (s [a] [] none) 1 (dueLoop demo)).time.tick)
     ∧ (s [b] [a] none).cu.due = b :: [] ∧ (s [b] [a] none).cu.stack = a :: [] ∧ b.priority < a.priority
     ∧ a.priority ≤ a.priority
     ∧ ((s [b] [] (some a)).cu.running = some a ∧ (s [b] [] (some a)).cu.due = b :: []
        ∧ (s [b] [] (some a)).cu.stack.length < 3)
     ∧ 3 ≤ (s [b] [a, a, a] (some a)).cu.stack.length) := by decide +kernel

/-- A store of 22 reports of another loop. -/
def fullStore : List ReportEntry := List.replicate 22 (outputEntry 9 (.sent 3))

/-- An entry below the retry limit and one at it, in each link state, and with an owed event behind a full store. -/
theorem witness_RetryExpiryGoesBackOrDrops :
    (let s (e : ReportEntry) : State := { withStore base [e] with rep := { base.rep with store := [e], retryTimer := some 50 } }
     let old : ReportEntry := { outputEntry 2 (.sent 7) with retryCount := 3 }
     (base.power = .running ∧ base.rep.retryTimer = none)
     ∧ ((s (outputEntry 2 (.sent 7))).rep.retryTimer ≠ none ∧ (s (outputEntry 2 (.sent 7))).link.state ≠ .mute
       ∧ (s (outputEntry 2 (.sent 7))).rep.store = outputEntry 2 (.sent 7) :: []
       ∧ (outputEntry 2 (.sent 7)).retryCount + 1 ≤ (s (outputEntry 2 (.sent 7))).rep.retryLimit)
     ∧ ((s old).rep.retryTimer ≠ none ∧ (s old).rep.store = old :: [] ∧ (s old).rep.retryLimit < old.retryCount + 1)
     ∧ (∀ t ∈ [withLink (s old) .ok 55, withLink (s old) .ok 56, withLink (s old) .warn 120,
          { s old with rep := { (s old).rep with store := old :: fullStore ++ [old], engineOwed := [.linkOk] } }],
        t.power = .running ∧ t.rep.retryTimer ≠ none ∧ t.rep.store.head? = some old
          ∧ t.rep.retryLimit < old.retryCount + 1)) := by decide +kernel

/-! ## Witnesses: admission -/

theorem witness_HandedFlagsLatchAndAreOffered :
    (let r := (mixed.loop 1).alarms
     (0b00000 : FlagSet) &&& ~~~r.latched &&& r.mask = 0 ∧ (0b00001 : FlagSet) &&& ~~~r.latched &&& r.mask ≠ 0)
    ∧ mixed.rep.store.length < 22
    ∧ ¬((withStore mixed fullStore).rep.store.length < 22
      ∨ ∃ e ∈ (withStore mixed fullStore).rep.store, e.queuedAlarmOf 1 = true) := by decide +kernel

theorem witness_OutputReportsReplaceAppendOrDrop :
    ((withStore base [outputEntry 2 .queued]).rep.store = [] ++ outputEntry 2 .queued :: []
      ∧ (outputEntry 2 .queued).state = .queued ∧ (outputEntry 2 .queued).report = .output (anOutput 2)
      ∧ (anOutput 2).loop = 2)
    ∧ base.rep.store.length < 22 ∧ (∀ e ∈ base.rep.store, ¬e.state = .queued)
    ∧ 22 ≤ (withStore base fullStore).rep.store.length
    ∧ ∀ e ∈ (withStore base fullStore).rep.store, ¬e.state = .queued := by decide +kernel

theorem witness_AlarmAndEngineReportsAreAdmitted :
    (let u (l : List ReportEntry) : ReportUnit := { base.rep with store := l }
     let al : ReportEntry := ⟨.alarm ⟨2, 1, 1⟩, .queued, 0⟩
     let dr : ReportEntry := ⟨.engine (.reportsDropped 1), .queued, 0⟩
     ((u [al]).store = [] ++ al :: [] ∧ al.state = .queued ∧ al.report = .alarm ⟨2, 1, 1⟩)
     ∧ ((u []).store.length < 22 ∧ ∀ e ∈ (u []).store, ¬e.state = .queued)
     ∧ (22 ≤ (u fullStore).store.length ∧ ∀ e ∈ (u fullStore).store, ¬e.state = .queued)
     ∧ ((u [dr]).store = [] ++ dr :: [] ∧ dr.state = .queued ∧ dr.report = .engine (.reportsDropped 1))
     ∧ ((u fullStore).store.length < 24)
     ∧ (24 ≤ (u (fullStore ++ [al, al])).store.length
        ∧ ∀ o ∈ (u (fullStore ++ [al, al])).engineOwed, o.sameKind .linkOk = false)
     ∧ (let w : ReportUnit := { u (fullStore ++ [al, al]) with engineOwed := [.linkOk, .runEntered] }
        24 ≤ w.store.length ∧ w.engineOwed = [] ++ .linkOk :: [.runEntered] ∧ EngineEvent.linkOk.sameKind .linkOk = true
         ∧ ∀ y ∈ ([] : List EngineEvent) ++ [.runEntered], y.sameKind .linkOk = false)) := by decide +kernel

theorem witness_AlarmAndEngineReportsAreAdmitted_kind : ∀ k, EngineEvent.linkOk ≠ .reportsDropped k := by
  intro k h
  cases h

/-- Nothing owed, and a loop owed with no QUEUED ALARM report of its own. -/
theorem witness_OwedReportsAreAdmittedInOrder :
    (∀ i, (base.loop i).alarms.owed ≠ 0 → ∀ e ∈ base.rep.store, e.queuedAlarmOf i = false)
    ∧ (let s := withStore (put base 1 { loopOf demo .idle with alarms := ⟨1, 1, 1⟩ }) [outputEntry 1 .queued]
       ∀ i, (s.loop i).alarms.owed ≠ 0 → ∀ e ∈ s.rep.store, e.queuedAlarmOf i = false) := by decide +kernel

/-- Each report mode; DIVIDE at and before its count of 2; CHANGE with no value, and with a move of 4 and of 3. -/
theorem witness_CompletionReportsFollowTheReportMode :
    (let div : Definition := { demo with reportMode := .divide, reportParam := 2 }
     let chg : Definition := { demo with reportMode := .change, reportParam := 4 }
     let none' : Definition := { demo with reportMode := .silent }
     let s (l : LoopEntry) : State := put base 1 l
     ((s (loopOf demo .active)).loop 1).definition = some demo ∧ demo.reportMode = .every
     ∧ ((s (loopOf none' .active)).loop 1).definition = some none' ∧ none'.reportMode = .silent
     ∧ ((s (loopOf div .active)).loop 1).divideCounter.toNat + 1 ≠ div.reportParam.toNat
     ∧ ((s { loopOf div .active with divideCounter := 1 }).loop 1).divideCounter.toNat + 1 = div.reportParam.toNat
     ∧ ((s (loopOf chg .active)).loop 1).lastReported = none
     ∧ ((s { loopOf chg .active with lastReported := some 4 }).loop 1).lastReported = some 4
     ∧ chg.reportParam.toNat ≤ (((s (loopOf chg .active)).loop 1).primary.toInt - (4 : Count).toInt).natAbs
     ∧ (((s (loopOf chg .active)).loop 1).primary.toInt - (3 : Count).toInt).natAbs < chg.reportParam.toNat) := by
  decide +kernel

/-! ## Witnesses: arithmetic -/

theorem witness_FirstReleaseIsTheFirstAlignedTick :
    0 < (1 : BitVec 16).toNat ∧ (0 : BitVec 16).toNat < (1 : BitVec 16).toNat
    ∧ (65534 : BitVec 16).toNat < (65535 : BitVec 16).toNat := by decide +kernel

theorem witness_GainSumAndDivAreExact :
    (stageOf .gain).op = .gain ∧ (stageOf .sum).op = .sum ∧ (stageOf .div).op = .div ∧ (1 : Count) ≠ 0 := by
  decide +kernel

theorem witness_LpfFollowsItsInputWithoutSaturating :
    (stageOf .lpf).op = .lpf ∧ 0 ≤ (⟨0, 0, 0, 0⟩ : Coefs).c0.toInt ∧ 0 ≤ (⟨0x7FFF, 0, 0, 0⟩ : Coefs).c0.toInt := by
  decide +kernel

theorem witness_PidHoldsItsIntegratorInSaturation :
    (stageOf .pid).op = .pid ∧ -134213632 ≤ (BitVec.ofInt 32 (-134213632)).toInt
    ∧ (BitVec.ofInt 32 (-134213632)).toInt ≤ 134213632 ∧ (134213632 : MemWord).toInt ≤ 134213632 := by decide +kernel

theorem witness_LimitClampsRangeThenRate :
    (stageOf .limit).op = .limit ∧ (⟨5, 5, 1, 0⟩ : Coefs).c0.toInt ≤ (⟨5, 5, 1, 0⟩ : Coefs).c1.toInt
    ∧ -32768 ≤ (BitVec.ofInt 32 (-32768)).toInt ∧ (BitVec.ofInt 32 (-32768)).toInt ≤ 32767 := by decide +kernel

theorem witness_RotateAndAtanExactCases :
    (stageOf .rotate).op = .rotate ∧ (stageOf .atan).op = .atan ∧ 0 < (1 : Count).toInt ∧ (0x8000 : Count).toInt < 0 := by
  decide +kernel

/-! ## Witnesses: the invariants, each in a state with something in every block -/

theorem witness_LoopsAndUnitStayConsistent :
    LoopInv openPart ∧ step openPart = .next (after .stageCompletion { openPart with pending := [] }) :=
  ⟨openPart_loopInv, rfl⟩

theorem fits_zero (d : Definition) (h : ∀ st ∈ d.stages, st.op = .gain) :
    BankFits d (Vector.replicate 4 ⟨0, 0, 0, 0⟩) := by
  intro k
  split
  · rename_i st hst
    have hg := h st (List.mem_of_getElem? hst)
    constructor <;> intro e <;> rw [hg] at e <;> cases e
  · simp

theorem openPart_definitions : ∀ i, ∀ d ∈ (openPart.loop i).definition, d = demo := by decide +kernel

theorem openPart_banks : ∀ i, (openPart.loop i).activeBank = Vector.replicate 4 ⟨0, 0, 0, 0⟩
    ∧ (openPart.loop i).pendingBank = Vector.replicate 4 ⟨0, 0, 0, 0⟩ := by decide +kernel

theorem memFits_zero (op : Option StageOp) : MemFits op ⟨0, 0, 0, false⟩ := by
  rcases op with _ | op
  · simp [MemFits]
  · cases op <;> simp [MemFits]

theorem openPart_memInv : MemInv openPart where
  words i k := by
    have h : ∀ i (k : Fin 4), (openPart.loop i).mem[k] = ⟨0, 0, 0, false⟩ := by decide +kernel
    rw [h]
    exact memFits_zero _
  inFlight x hx k q hq := by
    have h : ∀ x ∈ openPart.cu.live, ∀ k : Fin 4, x.proposals[k] = none := by decide +kernel
    rw [h x hx k] at hq
    cases hq

theorem witness_CoefficientBanksStayLegal :
    (CoefInv openPart ∧ step openPart = .next (after .stageCompletion { openPart with pending := [] }))
    ∧ LoopInv openPart ∧ MemInv openPart := by
  refine ⟨⟨⟨fun i d h => ?_, fun i d h => ?_, fun i d h => ?_, fun i _ => openPart_banks i⟩, rfl⟩, openPart_loopInv,
    openPart_memInv⟩
  · rw [openPart_definitions i d h]; exact demo_legal
  · rw [openPart_definitions i d h, (openPart_banks i).1]
    exact fits_zero demo (by decide)
  · rw [openPart_definitions i d h, (openPart_banks i).2]
    exact fits_zero demo (by decide)

theorem busyPart_numbered : ∀ k e, busyPart.rep.store[k]? = some e →
    e.state.rsn? = if k < busyPart.rep.holding then some (busyPart.rep.nextRsn - BitVec.ofNat 8 (busyPart.rep.holding - k))
      else none := by
  intro k e h
  match k with
  | 0 => cases h; decide +kernel
  | 1 => cases h; decide +kernel
  | k + 2 => cases h

theorem witness_ReportStoreStaysOrdered :
    StoreInv busyPart ∧ step busyPart = .next (after .stageCompletion { busyPart with pending := [] }) := by
  refine ⟨⟨by decide +kernel, by decide +kernel, by decide +kernel, by decide +kernel, busyPart_numbered,
    by decide +kernel, by decide +kernel, ?_, by decide +kernel, by decide +kernel, by decide +kernel, by decide +kernel,
    by decide +kernel⟩, rfl⟩
  intro e h
  cases h
  decide +kernel

theorem witness_AlarmRecordsStayConsistent :
    AlarmInv busyPart ∧ step busyPart = .next (after .stageCompletion { busyPart with pending := [] }) :=
  ⟨⟨by decide +kernel, by decide +kernel, by decide +kernel⟩, rfl⟩

theorem witness_LinkUnitStaysConsistent :
    LinkInv busyPart ∧ step busyPart = .next (after .stageCompletion { busyPart with pending := [] }) :=
  ⟨⟨by decide +kernel, by decide +kernel, by decide +kernel, by decide +kernel, by decide +kernel,
    show 64 ≤ busyPart.link.lec.toNat ∧ busyPart.link.lec.toNat ≤ 127 by decide +kernel, trivial,
    by decide +kernel, by decide +kernel, by decide +kernel, by decide +kernel⟩, rfl⟩

end Sys2Proof.Tests
end

section
/-! SUPPORT. What the invariants of the loop table see of a state (its core), and the operations that leave it as
it is. -/

namespace Sys2Proof.Machine

/-- What the invariants of the loops, the coefficient banks and the runtime memory see of a loop entry. -/
structure LoopCore where
  definition : Option Definition
  activeBank : Bank
  pendingBank : Bank
  mem : Vector StageMem 4
  state : LoopState
  status : InstanceStatus
  nextRelease : Option Tick

def LoopEntry.core (l : LoopEntry) : LoopCore :=
  ⟨l.definition, l.activeBank, l.pendingBank, l.mem, l.state, l.status, l.nextRelease⟩

/-- Two states agree in all the invariants of the loop table see: the loops' cores, the computation unit, the mode
with its pin, and the link state. -/
structure SameCore (s t : State) : Prop where
  loop : ∀ i, (t.loop i).core = (s.loop i).core
  cu : t.cu = s.cu
  mode : t.ctl.mode = s.ctl.mode
  safeN : t.ctl.safeN = s.ctl.safeN
  link : t.link.state = s.link.state

namespace SameCore

theorem refl (s : State) : SameCore s s := ⟨fun _ => rfl, rfl, rfl, rfl, rfl⟩

theorem trans {s t u : State} (h : SameCore s t) (k : SameCore t u) : SameCore s u :=
  ⟨fun i => (k.loop i).trans (h.loop i), k.cu.trans h.cu, k.mode.trans h.mode, k.safeN.trans h.safeN,
    k.link.trans h.link⟩

/-- A state with the loop table, the computation unit, the mode controller and the link state of another has its
core. -/
theorem of_eq {s t : State} (hl : t.loops = s.loops) (hc : t.cu = s.cu) (hm : t.ctl.mode = s.ctl.mode)
    (hn : t.ctl.safeN = s.ctl.safeN) (hk : t.link.state = s.link.state) : SameCore s t :=
  ⟨fun i => by rw [loop_congr hl], hc, hm, hn, hk⟩

variable {s t : State} (h : SameCore s t)
include h

theorem definition (i : LoopId) : (t.loop i).definition = (s.loop i).definition :=
  congrArg LoopCore.definition (h.loop i)
theorem activeBank (i : LoopId) : (t.loop i).activeBank = (s.loop i).activeBank :=
  congrArg LoopCore.activeBank (h.loop i)
theorem pendingBank (i : LoopId) : (t.loop i).pendingBank = (s.loop i).pendingBank :=
  congrArg LoopCore.pendingBank (h.loop i)
theorem mem (i : LoopId) : (t.loop i).mem = (s.loop i).mem := congrArg LoopCore.mem (h.loop i)
theorem state (i : LoopId) : (t.loop i).state = (s.loop i).state := congrArg LoopCore.state (h.loop i)
theorem status (i : LoopId) : (t.loop i).status = (s.loop i).status := congrArg LoopCore.status (h.loop i)
theorem nextRelease (i : LoopId) : (t.loop i).nextRelease = (s.loop i).nextRelease :=
  congrArg LoopCore.nextRelease (h.loop i)

end SameCore

/-! ## Operations that leave the core as it is -/

/-- A change of the report unit and the loop table that keeps every loop's core keeps the state's. -/
theorem sameCore_of_only {s t : State} (h : ∃ u ls, t = { s with rep := u, loops := ls })
    (hl : ∀ i, (t.loop i).core = (s.loop i).core) : SameCore s t := by
  obtain ⟨u, ls, rfl⟩ := h
  exact ⟨hl, rfl, rfl, rfl, rfl⟩

/-- A change of one loop entry that keeps its core keeps the state's. -/
theorem sameCore_modLoop (s : State) (i : LoopId) {f : LoopEntry → LoopEntry}
    (hf : (f (s.loop i)).core = (s.loop i).core) : SameCore s (s.modLoop i f) :=
  ⟨fun j => by
    rw [loop_modLoop]
    split
    · next e => rw [hf, e]
    · rfl, rfl, rfl, rfl, rfl⟩

theorem sameCore_offerOutput (s : State) (r : OutputReport) : SameCore s (s.offerOutput r) :=
  sameCore_of_only (offerOutput_only s r) fun j => by
    rcases offerOutput_loop s r j with h | ⟨-, h⟩ <;> simp [h, LoopEntry.core]

theorem sameCore_produceOutput (s : State) (r : OutputReport) : SameCore s (s.produceOutput r) :=
  (sameCore_modLoop s r.loop rfl).trans (sameCore_offerOutput _ r)

theorem sameCore_safeOutput (s : State) (i : LoopId) : SameCore s (s.safeOutput i) := by
  unfold State.safeOutput
  split
  · exact .refl s
  · split
    · exact .refl s
    · exact sameCore_produceOutput s _

theorem sameCore_refreshAlert (s : State) : SameCore s s.refreshAlert := .of_eq rfl rfl rfl rfl rfl

theorem sameCore_offerEngine (s : State) (e : EngineEvent) : SameCore s (s.offerEngine e) := .of_eq rfl rfl rfl rfl rfl

theorem sameCore_offerAlarm (s : State) (i : LoopId) (f : FlagSet) : SameCore s (s.offerAlarm i f) :=
  sameCore_of_only (offerAlarm_only s i f) fun j => by
    obtain ⟨hne, hself⟩ := offerAlarm_loop s i f
    by_cases h : j = i
    · subst h
      rcases hself with h | h <;> simp [h, LoopEntry.core]
    · rw [hne j h]

theorem sameCore_raiseAlarm (s : State) (i : LoopId) (f : FlagSet) : SameCore s (s.raiseAlarm i f) := by
  unfold State.raiseAlarm
  split
  · exact .refl s
  · exact sameCore_offerAlarm s i _

theorem sameCore_handAlarms (s : State) (i : LoopId) (f : FlagSet) : SameCore s (s.handAlarms i f) :=
  ((sameCore_modLoop s i rfl).trans (sameCore_raiseAlarm _ i _)).trans (sameCore_refreshAlert _)

theorem sameCore_completionOutput (s : State) (i : LoopId) (d : Definition) (x : Instance) (m : Marks) :
    SameCore s (s.completionOutput i d x m) := by
  unfold State.completionOutput
  dsimp only
  split
  · exact (sameCore_modLoop s i rfl).trans (sameCore_produceOutput _ _)
  · exact sameCore_modLoop s i rfl

theorem sameCore_remask (s : State) (i : LoopId) (m : FlagSet) : SameCore s (s.remask i m) :=
  (sameCore_modLoop s i rfl).trans (sameCore_raiseAlarm _ i _)

/-- What is done loop by loop, keeping the core at every loop, keeps it. -/
theorem sameCore_foldl {f : LoopId → State → State} (hf : ∀ i t, SameCore t (f i t)) (l : List LoopId) (s : State) :
    SameCore s (l.foldl (fun t i => f i t) s) := by
  induction l generalizing s with
  | nil => exact .refl s
  | cons i rest ih => exact (hf i s).trans (ih (f i s))

theorem sameCore_eachLoop {f : LoopId → State → State} (hf : ∀ i t, SameCore t (f i t)) (s : State) :
    SameCore s (s.eachLoop f) := sameCore_foldl hf allLoops s

theorem sameCore_eachNamed {f : LoopId → State → State} (hf : ∀ i t, SameCore t (f i t)) (m : LoopMask) (s : State) :
    SameCore s (s.eachNamed m f) :=
  sameCore_eachLoop (fun i t => by
    split
    · exact hf i t
    · exact .refl t) s

theorem sameCore_admitAlarmOwed (s : State) : SameCore s s.admitAlarmOwed := by
  unfold State.admitAlarmOwed
  refine sameCore_eachLoop (fun i t => ?_) s
  split
  · exact sameCore_offerAlarm t i _
  · exact .refl t

theorem sameCore_admitOwed (s : State) : SameCore s s.admitOwed := by
  unfold State.admitOwed
  have h : SameCore s { s with rep := s.rep.admitEngineOwed s.rep.engineOwed } := .of_eq rfl rfl rfl rfl rfl
  exact h.trans (sameCore_admitAlarmOwed _)

theorem sameCore_transmit (s : State) : SameCore s s.transmit := by
  obtain ⟨u, q, tx, h⟩ := transmit_only s
  rw [h]
  exact .of_eq rfl rfl rfl rfl rfl

theorem sameCore_transmitAfterResponse (s : State) : SameCore s s.transmitAfterResponse := by
  obtain ⟨u, q, tx, n, h⟩ := transmitAfterResponse_only s
  rw [h]
  exact .of_eq rfl rfl rfl rfl rfl

theorem sameCore_acknowledge (s : State) (a : Byte) (w : Nat) : SameCore s (s.acknowledge a w) := by
  unfold State.acknowledge
  split
  · exact .of_eq rfl rfl rfl rfl rfl
  · next rest _ =>
    dsimp only
    have h := sameCore_admitOwed { s with rep := { s.rep with store := rest, window := w } }
    generalize State.admitOwed { s with rep := { s.rep with store := rest, window := w } } = t at h
    exact ⟨h.loop, h.cu, h.mode, h.safeN, h.link⟩

theorem sameCore_passAck (s : State) (p : List Byte) : SameCore s (s.passAck p) := by
  unfold State.passAck
  split
  · exact .of_eq rfl rfl rfl rfl rfl
  · exact sameCore_acknowledge s _ _

theorem sameCore_placeInSlot (s : State) (f : Frame) : SameCore s (s.placeInSlot f) := by
  unfold State.placeInSlot
  split <;> exact .of_eq rfl rfl rfl rfl rfl

theorem sameCore_writeSlots (s : State) (now : Tick) (pairs : List (SlotId × Count)) :
    SameCore s (s.writeSlots now pairs) := by
  unfold State.writeSlots
  induction pairs generalizing s with
  | nil => exact .refl s
  | cons q rest ih =>
    have h : SameCore s (s.setSlot q.1 ⟨q.2, now, true⟩) := .of_eq rfl rfl rfl rfl rfl
    rw [List.foldl_cons]
    exact h.trans (ih _)

end Sys2Proof.Machine
end

section
/-! SUPPORT. What the field check of DEFINE_LOOP accepts (R13, R174): the reading of a payload, field by field. -/

namespace Sys2Proof.Machine

/-- A payload of DEFINE_LOOP reads as the stages `sts`, the definition `d` and the bank `bank`: each field stands at
its place in the layout of 10.3 and within its range (R13, R174). -/
structure Reads (p : List Byte) (sts : List (StageDesc × Coefs)) (d : Definition) (bank : Bank) : Prop where
  priority : (byteAt p 1).toNat = d.priority
  period : word16At p 2 = d.period
  offset : word16At p 4 = d.offset
  inputA : parseBinding (byteAt p 6) (byteAt p 7) = some d.inputA
  inputB : parseInputB (byteAt p 8) (byteAt p 9) = some d.inputB
  outMin : word16At p 11 = d.outMin
  outMax : word16At p 13 = d.outMax
  safeValue : word16At p 15 = d.safeValue
  holdAction : HoldAction.ofByte (byteAt p 17) = some d.holdAction
  stalePolicy : StalePolicy.ofByte (byteAt p 18) = some d.stalePolicy
  maxAge : word16At p 19 = d.maxAge
  missLimit : byteAt p 21 = d.missLimit
  arithPolicy : ArithPolicy.ofByte (byteAt p 22) = some d.arithPolicy
  reportMode : ReportMode.ofByte (byteAt p 23) = some d.reportMode
  reportParam : word16At p 24 = d.reportParam
  includeSecondary : (byteAt p 26 != 0) = d.includeSecondary
  alarmMask : flagsOfByte (byteAt p 27) = some d.alarmMask
  count : 1 ≤ (byteAt p 10).toNat ∧ (byteAt p 10).toNat ≤ 4
  stages : parseStages p (byteAt p 10).toNat 28 = some sts
  descriptors : d.stages = sts.map (·.1)
  ranges : rangesLegal d.period d.offset d.outMin d.outMax d.safeValue = true
  param : reportParamLegal d.reportMode d.reportParam = true
  bank : bank = bankOf (sts.map (·.2))

/-- The field check accepts exactly the payloads that read as a definition and a bank. -/
theorem parseDefinition_eq_some {p : List Byte} {d : Definition} {bank : Bank} :
    parseDefinition p = some (d, bank) ↔ ∃ sts, Reads p sts d bank := by
  constructor
  · intro h
    unfold parseDefinition at h
    by_cases hp : (byteAt p 1).toNat < 8
    · by_cases hk : 1 ≤ (byteAt p 10).toNat ∧ (byteAt p 10).toNat ≤ 4
      · simp only [hp, hk, and_self, if_true, dif_pos, Option.bind_eq_bind, Option.bind_some, Option.bind_eq_some_iff,
          Option.ite_none_right_eq_some, Bool.and_eq_true, Option.some.injEq, Prod.mk.injEq] at h
        obtain ⟨inputA, hA, inputB, hB, hold, hH, stale, hS, arith, hAr, mode, hM, mask, hMask, sts, hSts,
          ⟨hRange, hParam⟩, rfl, rfl⟩ := h
        exact ⟨sts, rfl, rfl, rfl, hA, hB, rfl, rfl, rfl, hH, hS, rfl, rfl, hAr, hM, rfl, rfl, hMask, hk, hSts, rfl,
          hRange, hParam, rfl⟩
      · simp [hp, hk] at h
    · simp [hp] at h
  · rintro ⟨sts, h⟩
    have hp : (byteAt p 1).toNat < 8 := by rw [h.priority]; exact d.priority.isLt
    have hprio : (⟨(byteAt p 1).toNat, hp⟩ : Fin 8) = d.priority := Fin.ext h.priority
    unfold parseDefinition
    simp only [hp, h.count, and_self, if_true, dif_pos, Option.bind_eq_bind, Option.bind_some, h.inputA, h.inputB,
      h.holdAction, h.stalePolicy, h.arithPolicy, h.reportMode, h.alarmMask, h.stages, h.period, h.offset, h.outMin,
      h.outMax, h.safeValue, h.ranges, h.reportParam, h.param, Bool.and_self, h.maxAge, h.missLimit,
      h.includeSecondary, hprio, ← h.descriptors, ← h.bank]

/-- A stage entry that passes its checks carries an op of the eight with coefficient words it accepts (R13, R46). -/
theorem coefsLegal_iff (op : StageOp) (c : Coefs) : coefsLegal op c = true ↔ LegalCoefs op c := by
  cases op <;> simp [coefsLegal, LegalCoefs]

/-- What a stage entry that passes the field check says (R13, R174). -/
theorem parseStage_eq_some {p : List Byte} {i : Nat} {st : StageDesc} {c : Coefs} :
    parseStage p i = some (st, c) ↔
      StageOp.ofByte (byteAt p i) = some st.op ∧ byteAt p (i + 1) = st.target ∧ (byteAt p (i + 2)).toNat = st.shift
        ∧ (byteAt p (i + 3) != 0) = st.setpointFromB ∧ coefsAt p (i + 4) = c
        ∧ (st.op = .gain → st.target.toNat ≤ 2) ∧ LegalCoefs st.op c := by
  unfold parseStage
  rw [← coefsLegal_iff]
  cases hop : StageOp.ofByte (byteAt p i) with
  | none => simp
  | some op =>
    by_cases hs : (byteAt p (i + 2)).toNat < 16
    · obtain ⟨op', target, shift, flag⟩ := st
      simp only [hs, dif_pos, Option.ite_none_left_eq_some, Option.some.injEq, Prod.mk.injEq, StageDesc.mk.injEq,
        Fin.ext_iff, not_or, not_and, Nat.not_lt, Bool.not_eq_false]
      constructor
      · rintro ⟨⟨hg, hc⟩, ⟨rfl, rfl, hsh, hf⟩, rfl⟩
        exact ⟨rfl, rfl, hsh, hf, rfl, hg, hc⟩
      · rintro ⟨rfl, rfl, hsh, hf, rfl, hg, hc⟩
        exact ⟨⟨hg, hc⟩, ⟨rfl, rfl, hsh, hf⟩, rfl⟩
    · have hne : (byteAt p (i + 2)).toNat ≠ st.shift := fun h => hs (h ▸ st.shift.isLt)
      simp [hs, hne]

/-- The stage entries read are as many as the payload counts, each at its own place. -/
theorem parseStages_eq_some {p : List Byte} {n i : Nat} {sts : List (StageDesc × Coefs)} :
    parseStages p n i = some sts ↔
      sts.length = n ∧ ∀ k (h : k < sts.length), parseStage p (i + 12 * k) = some sts[k] := by
  induction n generalizing i sts with
  | zero =>
    rw [parseStages]
    constructor
    · rintro ⟨⟩
      exact ⟨rfl, fun k h => absurd h (Nat.not_lt_zero k)⟩
    · rintro ⟨h, -⟩
      rw [List.length_eq_zero_iff.1 h]
  | succ n ih =>
    rw [parseStages]
    cases sts with
    | nil =>
      split <;> simp
    | cons st rest =>
      have hshift : ∀ k, i + 12 * (k + 1) = i + 12 + 12 * k := fun k => by omega
      constructor
      · intro h
        split at h
        · next st' rest' h1 h2 =>
          simp only [Option.some.injEq, List.cons.injEq] at h
          obtain ⟨rfl, rfl⟩ := h
          obtain ⟨hl, hk⟩ := ih.1 h2
          refine ⟨by simp [hl], fun k hlt => ?_⟩
          cases k with
          | zero => exact h1
          | succ k => rw [hshift]; exact hk k (Nat.lt_of_succ_lt_succ hlt)
        · cases h
      · rintro ⟨hl, hk⟩
        have h1 : parseStage p i = some st := hk 0 (Nat.succ_pos _)
        have h2 : parseStages p n (i + 12) = some rest :=
          ih.2 ⟨by simpa using hl, fun k hlt => by
            have := hk (k + 1) (Nat.succ_lt_succ hlt)
            rwa [hshift] at this⟩
        rw [h1, h2]

/-! ## An accepted definition is legal -/

namespace Reads

variable {p : List Byte} {sts : List (StageDesc × Coefs)} {d : Definition} {bank : Bank} (h : Reads p sts d bank)
include h

theorem length : sts.length = (byteAt p 10).toNat := (parseStages_eq_some.1 h.stages).1

theorem stages_length : d.stages.length = (byteAt p 10).toNat := by rw [h.descriptors, List.length_map, h.length]

/-- The stage entry at index `k`, with the checks it has passed. -/
theorem stage {k : Nat} {st : StageDesc} {c : Coefs} (hk : sts[k]? = some (st, c)) :
    parseStage p (28 + 12 * k) = some (st, c) := by
  obtain ⟨hlt, he⟩ := List.getElem?_eq_some_iff.1 hk
  rw [(parseStages_eq_some.1 h.stages).2 k hlt, he]

/-- A definition that passes the field check is one DEFINE_LOOP accepts (R13). -/
theorem legal : d.Legal := by
  have hr := h.ranges
  simp only [rangesLegal, Bool.and_eq_true, decide_eq_true_eq] at hr
  obtain ⟨⟨⟨⟨hperiod, hoffset⟩, hout⟩, hlo⟩, hhi⟩ := hr
  have hparam := h.param
  refine ⟨hperiod, hoffset, ?_, ?_, hout, ⟨hlo, hhi⟩, ?_, ?_⟩
  · rw [h.stages_length]; exact h.count
  · intro st hst
    rw [h.descriptors] at hst
    obtain ⟨⟨st', c⟩, hmem, rfl⟩ := List.mem_map.1 hst
    obtain ⟨k, hk⟩ := List.mem_iff_getElem?.1 hmem
    obtain ⟨-, -, -, -, -, hgain, -⟩ := parseStage_eq_some.1 (h.stage hk)
    exact hgain
  · intro hm
    simpa [reportParamLegal, hm] using hparam
  · intro hm
    simp only [reportParamLegal, hm, bne_iff_ne, ne_eq] at hparam
    rintro h0
    exact hparam (by rw [h0]; rfl)

end Reads

/-- The bank's words stage by stage. -/
theorem bankOf_get (cs : List Coefs) (k : Fin 4) : (bankOf cs)[k] = cs.getD k .zero := by
  match k with
  | 0 => rfl
  | 1 => rfl
  | 2 => rfl
  | 3 => rfl

/-- The bank that passes the field check fits its definition (R46, R52). -/
theorem Reads.bankFits {p : List Byte} {sts : List (StageDesc × Coefs)} {d : Definition} {bank : Bank}
    (h : Reads p sts d bank) : BankFits d bank := by
  intro k
  rw [h.bank, h.descriptors, bankOf_get]
  cases hk : sts[(k : Nat)]? with
  | none => simp [hk, Coefs.zero]
  | some st =>
    obtain ⟨-, -, -, -, -, -, hlegal⟩ := parseStage_eq_some.1 (h.stage hk)
    simpa [hk] using hlegal

end Sys2Proof.Machine
end

section
/-! SUPPORT. What a step can do to the loops, the mode and the computation unit: the moves, and that every step is a
chain of them. The invariants of the loop table are proved move by move. -/

namespace Sys2Proof.Machine

/-- What a move does to the core of one loop entry in a mode: the changes of R14, R16 to R20, R27, R54 to R59 and
R84, R85. -/
inductive LoopMove (mode : Mode) (c : LoopCore) : LoopCore → Prop
  | define {d : Definition} {bank : Bank} : c.state = .empty ∨ c.state = .idle → d.Legal → BankFits d bank →
      LoopMove mode c (definedEntry d bank).core
  | clear : c.status = .noInstance → LoopMove mode c LoopEntry.reset.core
  | arm {mem : Vector StageMem 4} {first : Definition → Tick} : c.state ≠ .empty → c.state ≠ .active →
      mem = c.mem ∨ mem = memFresh →
      LoopMove mode c { c with
        mem := mem, state := .armed
        nextRelease := match mode with
          | .run => c.definition.map first
          | .safe => none }
  | leave {st : LoopState} : c.status = .noInstance → c.state ≠ .empty ∨ c.definition ≠ none →
      st = .held .host ∨ st = .faulted →
      LoopMove mode c { c with state := st, nextRelease := none }
  | activate : c.state = .active ∨ (c.state = .armed ∧ mode = .run) → LoopMove mode c { c with state := .active }
  | advance (f : Tick → Tick) : LoopMove mode c { c with nextRelease := c.nextRelease.map f }
  | commit : LoopMove mode c { c with activeBank := c.pendingBank }
  | discard : LoopMove mode c { c with pendingBank := c.activeBank }
  | load {d : Definition} {st : StageDesc} {k : Nat} {w : Coefs} : c.definition = some d → d.stages[k]? = some st →
      LegalCoefs st.op w → LoopMove mode c { c with pendingBank := c.pendingBank.setIfInBounds k w }
  | preset {d : Definition} {ws : List (Nat × Proposal)} : c.definition = some d →
      (∀ w ∈ ws, ∃ st, d.stages[w.1]? = some st ∧ ProposalFits (some st.op) w.2) →
      LoopMove mode c { c with mem := presetMem c.mem ws }

/-- What SAFE entry does to the core of a loop entry (R25). -/
def LoopCore.heldForSafe (c : LoopCore) : LoopCore :=
  match c.state with
  | .active => { c with state := .held .safe, status := .noInstance, nextRelease := none }
  | .armed => { c with nextRelease := none }
  | _ => c

/-- A running instance, not abandoned, at the end of its stage `st` of the definition `d` (R104). -/
structure EndsStage (s : State) (x : Instance) (d : Definition) (st : StageDesc) : Prop where
  stage : s.cu.state = .stage
  running : s.cu.running = some x
  live : x.abandoned = false
  definition : (s.loop x.loop).definition = some d
  desc : d.stages[x.nextStage - 1]? = some st

/-- The result of the stage an instance stands at (R30, R32). -/
def State.stageResult (s : State) (x : Instance) (st : StageDesc) : StageResult :=
  runStage st (bankAt (s.loop x.loop).activeBank (x.nextStage - 1)) (memAt (s.loop x.loop).mem (x.nextStage - 1)) x.a x.b

/-- The fresh instance of a taken release (R97). -/
structure Instance.Fresh (x : Instance) (i : LoopId) (d : Definition) : Prop where
  loop : x.loop = i
  priority : x.priority = d.priority
  nextStage : x.nextStage = 1
  proposals : x.proposals = Vector.replicate 4 none
  live : x.abandoned = false

/-- The moves of the loops, the mode and the computation unit that steps are made of. -/
inductive Move : State → State → Prop
  | same {s t : State} : SameCore s t → Move s t
  | link {s t : State} (l : LinkState) : (s.ctl.mode = .run → l ≠ .mute) → t.link.state = l →
      SameCore { s with link := { s.link with state := l } } t → Move s t
  | reset {s t : State} : (∀ i, t.loop i = LoopEntry.reset) → t.cu = .reset → t.ctl.mode = .safe →
      t.ctl.safeN = .low → Move s t
  | safeEntry {s t : State} : (∀ i, (t.loop i).core = (s.loop i).core.heldForSafe) → t.cu = s.cu.flush →
      t.ctl.mode = .safe → t.ctl.safeN = .low → Move s t
  | runEntry {s t : State} : s.ctl.mode = .safe → (∀ i, t.loop i = (s.loop i).enterRun s.time.tick) → t.cu = s.cu →
      t.ctl.mode = .run → t.ctl.safeN = .high → t.link.state ≠ .mute → Move s t
  | loop {s : State} (i : LoopId) {l : LoopEntry} : LoopMove s.ctl.mode (s.loop i).core l.core → Move s (s.setLoop i l)
  | endInstance (s : State) (i : LoopId) : Move s (s.endInstance i)
  | insert {s : State} {i : LoopId} {d : Definition} {x : Instance} (now : Tick) :
      (s.loop i).definition = some d → (s.loop i).state = .active → (s.loop i).status = .noInstance → x.Fresh i d →
      Move s ({ s with cu := s.cu.insert now x }.modLoop i fun l => { l with status := .due })
  | settle (s : State) : Move s s.settleChoice
  | drop {s : State} {x : Instance} : s.cu.state = .stage → s.cu.running = some x →
      x.abandoned = true ∨ s.runningStage x = none → Move s s.dropRunning
  | abort {s : State} {x : Instance} : s.cu.state = .stage → s.cu.running = some x → x.abandoned = false →
      Move s (s.dropRunning.endInstance x.loop)
  | advance {s : State} {x : Instance} {d : Definition} {st : StageDesc} : EndsStage s x d st →
      x.nextStage < d.stages.length →
      Move s { s with cu := { s.cu with running := some (x.enter (s.stageResult x st)), state := .choice } }
  | complete {s : State} {x : Instance} {d : Definition} {st : StageDesc} : EndsStage s x d st →
      Move s (s.dropRunning.modLoop x.loop fun l => l.complete d (x.enter (s.stageResult x st)))

/-- A chain of moves. -/
def Moves : State → State → Prop := Relation.ReflTransGen Move

namespace Moves

theorem refl (s : State) : Moves s s := Relation.ReflTransGen.refl

theorem trans {s t u : State} (h : Moves s t) (k : Moves t u) : Moves s u := Relation.ReflTransGen.trans h k

theorem one {s t : State} (h : Move s t) : Moves s t := Relation.ReflTransGen.single h

theorem same {s t : State} (h : SameCore s t) : Moves s t := one (.same h)

/-- A move of one loop, by a function of its entry. -/
theorem modLoop {s : State} {i : LoopId} {f : LoopEntry → LoopEntry}
    (h : LoopMove s.ctl.mode (s.loop i).core (f (s.loop i)).core) : Moves s (s.modLoop i f) := one (.loop i h)

/-- What every move keeps, every chain of moves keeps. -/
theorem keeps {P : State → Prop} (hP : ∀ s t, P s → Move s t → P t) {s t : State} (h : Moves s t) (hs : P s) :
    P t := by
  induction h with
  | refl => exact hs
  | tail _ hm ih => exact hP _ _ ih hm

end Moves

/-- What is done loop by loop, each time a chain of moves, is a chain of moves. -/
theorem moves_foldl {f : LoopId → State → State} (hf : ∀ i t, Moves t (f i t)) (l : List LoopId) (s : State) :
    Moves s (l.foldl (fun t i => f i t) s) := by
  induction l generalizing s with
  | nil => exact .refl s
  | cons i rest ih => exact (hf i s).trans (ih (f i s))

theorem moves_eachLoop {f : LoopId → State → State} (hf : ∀ i t, Moves t (f i t)) (s : State) :
    Moves s (s.eachLoop f) :=
  moves_foldl hf allLoops s

end Sys2Proof.Machine
end

section
/-! SUPPORT. Every step is a chain of moves: operation by operation, from the loop table up to the commands. -/

namespace Sys2Proof.Machine

/-! ## The sixteen loops, one after another -/

theorem mem_allLoops (i : LoopId) : i ∈ allLoops := by
  fin_cases i <;> decide

theorem allLoops_nodup : allLoops.Nodup := by decide

/-- What is done loop by loop, each time to its own loop alone, is done once to every loop. -/
theorem foldl_loops_at {α : Type} {v : State → LoopId → α} {g : LoopId → α → α} {f : LoopId → State → State}
    (hne : ∀ i t j, j ≠ i → v (f i t) j = v t j) (hself : ∀ i t, v (f i t) i = g i (v t i)) {l : List LoopId}
    (hl : l.Nodup) (s : State) (j : LoopId) :
    v (l.foldl (fun t i => f i t) s) j = if j ∈ l then g j (v s j) else v s j := by
  induction l generalizing s with
  | nil => rfl
  | cons i rest ih =>
    obtain ⟨hi, hrest⟩ := List.nodup_cons.1 hl
    rw [List.foldl_cons, ih hrest]
    by_cases h : j = i
    · subst h
      simp [hi, hself]
    · simp [h, hne i s j h]

theorem eachLoop_at {α : Type} {v : State → LoopId → α} {g : LoopId → α → α} {f : LoopId → State → State}
    (hne : ∀ i t j, j ≠ i → v (f i t) j = v t j) (hself : ∀ i t, v (f i t) i = g i (v t i)) (s : State) (j : LoopId) :
    v (s.eachLoop f) j = g j (v s j) := by
  have h := foldl_loops_at hne hself allLoops_nodup s j
  rwa [if_pos (mem_allLoops j)] at h

/-! ## The mask rule -/

/-- A loop stands in the failing mask exactly where it is named and its check failed so (R15). -/
theorem getLsbD_failMask (checks : LoopId → Option Result) (m : LoopMask) (r : Result) (j : LoopId) :
    (failMask checks m r).getLsbD j = true ↔ names m j = true ∧ checks j = some r := by
  have h : ∀ (l : List LoopId) (acc : LoopMask),
      (l.foldl (fun (acc : LoopMask) (i : LoopId) =>
        if names m i ∧ checks i = some r then acc ||| (1 <<< (i : Nat)) else acc)
        acc).getLsbD j = true
      ↔ acc.getLsbD j = true ∨ (j ∈ l ∧ names m j = true ∧ checks j = some r) := by
    intro l
    induction l with
    | nil => simp
    | cons i rest ih =>
      intro acc
      have hbit : BitVec.getLsbD ((1 <<< (i : Nat) : Nat) : LoopMask) j = true ↔ j = i := by
        rw [BitVec.natCast_eq_ofNat, BitVec.getLsbD_ofNat, Nat.one_shiftLeft, Nat.testBit_two_pow, Fin.ext_iff]
        simp [eq_comm]
      rw [List.foldl_cons, ih]
      split
      · next hi =>
        rw [BitVec.getLsbD_or, Bool.or_eq_true, hbit, List.mem_cons]
        constructor
        · rintro ((h | rfl) | ⟨h, hc⟩)
          · exact .inl h
          · exact .inr ⟨.inl rfl, hi⟩
          · exact .inr ⟨.inr h, hc⟩
        · rintro (h | ⟨rfl | h, hc⟩)
          · exact .inl (.inl h)
          · exact .inl (.inr rfl)
          · exact .inr ⟨h, hc⟩
      · next hi =>
        rw [List.mem_cons]
        constructor
        · rintro (h | ⟨h, hc⟩)
          · exact .inl h
          · exact .inr ⟨.inr h, hc⟩
        · rintro (h | ⟨rfl | h, hc⟩)
          · exact .inl h
          · exact absurd hc hi
          · exact .inr ⟨h, hc⟩
  rw [failMask, h]
  simp [mem_allLoops]

/-- The failing mask of a check is 0 exactly where no named loop failed it (R15). -/
theorem failMask_ne_zero {checks : LoopId → Option Result} {m : LoopMask} {r : Result} :
    failMask checks m r ≠ 0 ↔ ∃ i, names m i = true ∧ checks i = some r := by
  constructor
  · intro h
    by_contra hno
    refine h (BitVec.eq_of_getLsbD_eq fun k hk => ?_)
    have := getLsbD_failMask checks m r ⟨k, hk⟩
    exact (Bool.eq_false_iff.2 fun hbit => hno ⟨_, this.1 hbit⟩).trans BitVec.getLsbD_zero.symm
  · rintro ⟨i, hi⟩ h0
    have := (getLsbD_failMask checks m r i).2 hi
    rw [h0] at this
    simp at this

/-- Where a mask request is not refused, no named loop failed one of the three checks (R15). -/
theorem maskRefusal_none {checks : LoopId → Option Result} {m : LoopMask} (h : maskRefusal checks m = none)
    {i : LoopId} (hi : names m i = true) :
    checks i ≠ some .badLoop ∧ checks i ≠ some .mode ∧ checks i ≠ some .state := by
  have hzero : ∀ r, failMask checks m r = 0 → checks i ≠ some r := fun r h0 hc =>
    failMask_ne_zero.2 ⟨i, hi, hc⟩ h0
  unfold maskRefusal at h
  split at h
  · cases h
  · next h1 =>
    split at h
    · cases h
    · next h2 =>
      split at h
      · cases h
      · next h3 => exact ⟨hzero _ (not_not.1 h1), hzero _ (not_not.1 h2), hzero _ (not_not.1 h3)⟩

/-- A mask request that changes anything carries out its action, and every named loop has passed the checks (R15). -/
theorem maskRequest_cases (s : State) (p : List Byte) (check : LoopEntry → Option Result)
    (act : LoopMask → State → State) :
    (s.maskRequest p check act).1 = s
      ∨ ((s.maskRequest p check act).1 = act (word16At p 0) s ∧ ∀ i, names (word16At p 0) i = true →
        check (s.loop i) ≠ some .badLoop ∧ check (s.loop i) ≠ some .mode ∧ check (s.loop i) ≠ some .state) := by
  unfold State.maskRequest
  split
  · exact .inl rfl
  · split
    · exact .inl rfl
    · split
      · exact .inl rfl
      · next h => exact .inr ⟨rfl, fun i hi => maskRefusal_none h hi⟩

/-- What is done for the named loops, each time to its own loop alone, is a chain of moves where it is one for each
named loop as it stood at first. -/
theorem moves_eachNamed {s : State} {m : LoopMask} {f : LoopId → State → State}
    (hne : ∀ i t j, j ≠ i → ((f i t).loop j).core = (t.loop j).core) (hmode : ∀ i t, (f i t).ctl.mode = t.ctl.mode)
    (hf : ∀ i t, names m i = true → t.ctl.mode = s.ctl.mode → (t.loop i).core = (s.loop i).core → Moves t (f i t)) :
    Moves s (s.eachNamed m f) := by
  have h : ∀ (l : List LoopId) (t : State), l.Nodup → t.ctl.mode = s.ctl.mode →
      (∀ i ∈ l, (t.loop i).core = (s.loop i).core) →
      Moves t (l.foldl (fun t i => if names m i then f i t else t) t) := by
    intro l
    induction l with
    | nil => exact fun t _ _ _ => .refl t
    | cons i rest ih =>
      intro t hl ht hsame
      obtain ⟨hi, hrest⟩ := List.nodup_cons.1 hl
      rw [List.foldl_cons]
      split
      · next hn =>
        refine (hf i t hn ht (hsame i List.mem_cons_self)).trans
          (ih _ hrest ((hmode i t).trans ht) fun j hj => ?_)
        rw [hne i t j (fun e => hi (e ▸ hj))]
        exact hsame j (List.mem_cons_of_mem i hj)
      · exact ih t hrest ht fun j hj => hsame j (List.mem_cons_of_mem i hj)
  exact h allLoops s allLoops_nodup rfl fun _ _ => rfl

/-! ## SAFE entry, RUN entry and faults -/

theorem enterHeld_core_self (s : State) (i : LoopId) (f : LoopEntry → LoopEntry) :
    ((s.enterHeld i f).loop i).core = (f (s.loop i)).core := by
  unfold State.enterHeld
  dsimp only
  split
  · rw [(sameCore_safeOutput _ i).loop, loop_modLoop_self]
  · rw [loop_modLoop_self]

theorem enterHeld_core_ne (s : State) {i j : LoopId} (f : LoopEntry → LoopEntry) (h : j ≠ i) :
    ((s.enterHeld i f).loop j).core = (s.loop j).core := by
  unfold State.enterHeld
  dsimp only
  split
  · rw [(sameCore_safeOutput _ i).loop, loop_modLoop_ne _ _ h]
  · rw [loop_modLoop_ne _ _ h]

theorem holdForSafe_core_self (s : State) (i : LoopId) :
    ((s.holdForSafe i).loop i).core = (s.loop i).core.heldForSafe := by
  have hs : (s.loop i).core.state = (s.loop i).state := rfl
  unfold State.holdForSafe LoopCore.heldForSafe
  rw [hs]
  cases h : (s.loop i).state with
  | active => exact enterHeld_core_self s i _
  | armed =>
    dsimp only
    rw [loop_modLoop_self, LoopEntry.core, h]
    rfl
  | empty => rfl
  | idle => rfl
  | held r => rfl
  | faulted => rfl

theorem holdForSafe_core_ne (s : State) {i j : LoopId} (h : j ≠ i) :
    ((s.holdForSafe i).loop j).core = (s.loop j).core := by
  unfold State.holdForSafe
  split
  · exact enterHeld_core_ne s _ h
  · rw [loop_modLoop_ne _ _ h]
  · rfl

/-- A claim to enter SAFE in a state that differs from `s` in the link state at most (R183, R165). -/
theorem moves_claimSafe_of {s t : State} (h : SameCore { s with link := { s.link with state := t.link.state } } t)
    (c : SafeCause) : Moves s (t.claimSafe c) := by
  unfold State.claimSafe
  split
  · next hm =>
    refine .single (.link t.link.state (fun hr => ?_) rfl h)
    have hmode : t.ctl.mode = s.ctl.mode := h.mode
    rw [← hmode, hm] at hr
    cases hr
  · dsimp only
    have honly := eachLoop_only (fun i t => t.holdForSafe i) (fun i t => holdForSafe_only t i)
      (State.offerEngine { t with ctl := { t.ctl with mode := .safe, safeCause := c, safeN := .low } } (.safeEntered c))
    have hcore := eachLoop_at (v := fun t i => (t.loop i).core) (g := fun _ c => c.heldForSafe)
      (f := fun i t => t.holdForSafe i) (fun i t j hj => holdForSafe_core_ne t hj) (fun i t => holdForSafe_core_self t i)
      (State.offerEngine { t with ctl := { t.ctl with mode := .safe, safeCause := c, safeN := .low } } (.safeEntered c))
    generalize State.eachLoop _ _ = held at honly hcore
    obtain ⟨u, ls, rfl⟩ := honly
    refine (Moves.one (.safeEntry (fun i => ?_) (congrArg CompUnit.flush h.cu) rfl rfl)).trans (.one (.settle _))
    exact (hcore i).trans (congrArg LoopCore.heldForSafe (h.loop i))

theorem moves_claimSafe (s : State) (c : SafeCause) : Moves s (s.claimSafe c) := moves_claimSafe_of (.refl s) c

theorem moves_enterRun {s : State} (hm : s.ctl.mode = .safe) (hl : s.link.state ≠ .mute) : Moves s s.enterRun := by
  have h : s.enterRun = { s with
      ctl := { s.ctl with mode := .run, safeN := .high }, rep := s.rep.offerEngine .runEntered
      loops := Vector.ofFn fun i : LoopId => (s.loop i).enterRun s.time.tick } := eachLoop_modLoop _ _
  rw [h]
  refine .single (.runEntry hm (fun i => ?_) rfl rfl rfl hl)
  simp [State.loop]

theorem endInstance_loop_self (s : State) (i : LoopId) :
    (s.endInstance i).loop i = { s.loop i with status := .noInstance } := by
  rw [State.endInstance, loop_modLoop_self]
  rfl

theorem endInstance_loop_ne (s : State) {i j : LoopId} (h : j ≠ i) : (s.endInstance i).loop j = s.loop j := by
  rw [State.endInstance, loop_modLoop_ne _ _ h]
  rfl

theorem dropRunning_loop (s : State) (i : LoopId) : s.dropRunning.loop i = s.loop i := rfl

/-- The entry to FAULTED, once the outstanding instance has ended (R27). -/
theorem moves_fault_ended {s : State} {i : LoopId} (hs : (s.loop i).status = .noInstance)
    (he : (s.loop i).state ≠ .empty ∨ (s.loop i).definition ≠ none)
    (handed : FlagSet) :
    Moves s (((s.modLoop i fun l =>
      { l with state := .faulted, nextRelease := none, safeSub := true, outputValid := false }).handAlarms i
        handed).safeOutput i) :=
  Moves.trans (.modLoop (.leave hs he (.inr rfl))) <|
    .same ((sameCore_handAlarms _ i handed).trans (sameCore_safeOutput _ i))

theorem moves_faultLoop {s : State} {i : LoopId} (h : (s.loop i).state = .active) (handed : FlagSet) :
    Moves s (s.faultLoop i handed) := by
  refine (Moves.one (.endInstance s i)).trans (moves_fault_ended ?_ ?_ _) <;> rw [endInstance_loop_self]
  simp [h]

/-! ## Releases -/

theorem moves_missRelease {s : State} {i : LoopId} (h : (s.loop i).state = .active) (d : Definition) :
    Moves s (s.missRelease i d) := by
  unfold State.missRelease
  dsimp only
  split
  · refine .trans ?_ (moves_faultLoop (i := i) ?_ flagMiss)
    · exact .modLoop (.advance _)
    · rw [loop_modLoop_self]
      exact h
  · refine .trans ?_ (.same (sameCore_handAlarms _ i _))
    exact .modLoop (.advance _)

theorem moves_skipRelease (s : State) (i : LoopId) (d : Definition) : Moves s (s.skipRelease i d) := by
  refine .trans ?_ (.same (sameCore_handAlarms _ i _))
  exact .modLoop (.advance _)

/-- The loop's part of a taken release, ahead of the instance's insertion: a pending commit is made active and the
next-release tick advances (R58, R84). -/
theorem moves_commitAtRelease (s : State) (i : LoopId) :
    Moves s (s.modLoop i LoopEntry.commitAtRelease) := by
  by_cases h : (s.loop i).commitPending = true
  · refine .modLoop ?_
    rw [LoopEntry.commitAtRelease, if_pos h]
    exact .commit
  · refine .same (sameCore_modLoop s i ?_)
    rw [LoopEntry.commitAtRelease, if_neg h]

theorem moves_takeRelease {s : State} {i : LoopId} {d : Definition} (hd : (s.loop i).definition = some d)
    (ha : (s.loop i).state = .active) (hs : (s.loop i).status = .noInstance) (stale : Bool) :
    Moves s (s.takeRelease i d stale) := by
  have hcore : ∀ l : LoopEntry, l.commitAtRelease.definition = l.definition ∧ l.commitAtRelease.state = l.state
      ∧ l.commitAtRelease.status = l.status := fun l => by
    unfold LoopEntry.commitAtRelease
    split <;> exact ⟨rfl, rfl, rfl⟩
  obtain ⟨hcd, hcs, hct⟩ := hcore (s.loop i)
  let t1 := s.modLoop i LoopEntry.commitAtRelease
  let t2 := t1.modLoop i fun l => { l.advance d with stats := l.stats.incReleases, missCount := 0 }
  have h1 : t1.loop i = (s.loop i).commitAtRelease := loop_modLoop_self _ _ _
  have h2 : t2.loop i = { (t1.loop i).advance d with stats := (t1.loop i).stats.incReleases, missCount := 0 } :=
    loop_modLoop_self _ _ _
  have hm2 : Moves s t2 := (moves_commitAtRelease s i).trans (.modLoop (i := i) (.advance _))
  have hm3 : Moves t2 _ := .one (.insert (s := t2) (i := i) (d := d) (x := s.newInstance i d stale) s.time.tick
    (by rw [h2, LoopEntry.advance, h1]; exact hcd.trans hd) (by rw [h2, LoopEntry.advance, h1]; exact hcs.trans ha)
    (by rw [h2, LoopEntry.advance, h1]; exact hct.trans hs) ⟨rfl, rfl, rfl, rfl, rfl⟩)
  have hsame : SameCore ({ t2 with cu := t2.cu.insert s.time.tick (s.newInstance i d stale) }.modLoop i
        fun l => { l with status := .due })
      { s.modLoop i (fun l => l.taken d) with cu := s.cu.insert s.time.tick (s.newInstance i d stale) } := by
    refine ⟨fun j => ?_, rfl, rfl, rfl, rfl⟩
    by_cases hj : j = i
    · subst hj
      rw [loop_modLoop_self]
      change ((s.modLoop j fun l => l.taken d).loop j).core = LoopEntry.core { t2.loop j with status := .due }
      rw [loop_modLoop_self, h2, h1]
      rfl
    · rw [loop_modLoop_ne _ _ hj]
      change ((s.modLoop i fun l => l.taken d).loop j).core = (t2.loop j).core
      rw [loop_modLoop_ne _ _ hj, loop_modLoop_ne _ _ hj, loop_modLoop_ne _ _ hj]
  unfold State.takeRelease
  dsimp only
  refine (hm2.trans (hm3.trans (.same hsame))).trans ?_
  split
  · exact .same (sameCore_handAlarms _ i _)
  · exact .refl _

theorem moves_releaseSteps {s : State} {i : LoopId} {d : Definition} (hd : (s.loop i).definition = some d)
    (ha : (s.loop i).state = .active) : Moves s (s.releaseSteps i d) := by
  unfold State.releaseSteps
  split
  · exact moves_missRelease ha d
  · next hs =>
    split
    · split
      · exact moves_takeRelease hd ha (not_not.1 hs) true
      · exact moves_skipRelease s i d
      · exact moves_faultLoop ha _
    · exact moves_takeRelease hd ha (not_not.1 hs) false

/-- A release that has fallen due, as the model finds it (R85). -/
theorem dueRelease_eq_some {s : State} {i : LoopId} {d : Definition} : s.dueRelease i = some d ↔
    (s.loop i).nextRelease = some s.time.tick
      ∧ ((s.loop i).state = .active ∨ ((s.loop i).state = .armed ∧ s.ctl.mode = .run))
      ∧ (s.loop i).definition = some d := by
  unfold State.dueRelease
  rw [Option.ite_none_right_eq_some, and_assoc]

theorem moves_releaseEvent (s : State) (i : LoopId) : Moves s (s.releaseEvent i) := by
  unfold State.releaseEvent
  split
  · exact .refl _
  · next d h =>
    obtain ⟨-, hstate, hd⟩ := dueRelease_eq_some.1 h
    refine (((Moves.modLoop (i := i) (.activate hstate)).trans (moves_releaseSteps ?_ ?_)).trans
      (.one (.settle _))).trans (.same (sameCore_transmit _)) <;> rw [loop_modLoop_self]
    exact hd

theorem moves_takeDueReleases (s : State) : Moves s s.takeDueReleases :=
  moves_eachLoop (f := fun i t => t.releaseEvent i) (fun i t => moves_releaseEvent t i) s

theorem moves_tickEvent (s : State) : Moves s s.tickEvent :=
  Moves.trans (t := { s with time := { s.time with tick := s.time.tick + 1, intervalLength := s.time.tickLength } })
    (.same (.of_eq rfl rfl rfl rfl rfl)) (.one (.settle _))

/-! ## Stage completions -/

theorem runningStage_eq_some {s : State} {x : Instance} {d : Definition} {st : StageDesc} :
    s.runningStage x = some (d, st) ↔
      (s.loop x.loop).definition = some d ∧ d.stages[x.nextStage - 1]? = some st := by
  unfold State.runningStage
  split
  · next h => simp [h]
  · next d' h =>
    split
    · next h' =>
      rw [h]
      constructor
      · rintro ⟨⟩
      · rintro ⟨⟨⟩, hst⟩
        rw [h'] at hst
        cases hst
    · next st' h' =>
      rw [h]
      constructor
      · rintro ⟨⟩
        exact ⟨rfl, h'⟩
      · rintro ⟨⟨⟩, hst⟩
        rw [h'] at hst
        rw [Option.some.inj hst]

theorem moves_complete {s : State} {x : Instance} {d : Definition} {st : StageDesc} (h : EndsStage s x d st) :
    Moves s (s.dropRunning.complete d (x.enter (s.stageResult x st))) :=
  (Moves.one (.complete h)).trans (.same ((sameCore_handAlarms _ _ _).trans (sameCore_completionOutput _ _ d _ _)))

theorem moves_stageEnded {s : State} {x : Instance} {d : Definition} {st : StageDesc} (h : EndsStage s x d st) :
    Moves s (s.stageEnded x d st) := by
  unfold State.stageEnded
  dsimp only
  split
  · refine (Moves.one (.abort h.stage h.running h.live)).trans (moves_fault_ended ?_ ?_ _) <;>
      rw [endInstance_loop_self]
    exact .inr fun hn => nomatch h.definition.symm.trans hn
  · split
    · exact moves_complete h
    · next hlt => exact .one (.advance h (Nat.lt_of_not_le hlt))

end Sys2Proof.Machine
end

section
/-! SUPPORT. Every step is a chain of moves: the requests, the line and the commands. -/

namespace Sys2Proof.Machine

theorem moves_stageCompletion (s : State) : Moves s s.stageCompletion := by
  unfold State.stageCompletion
  split
  · next x hst hrun =>
    refine .trans ?_ (.trans (.one (.settle _)) (.same (sameCore_transmit _)))
    split
    · next ha => exact .one (.drop hst hrun (.inl ha))
    · next ha =>
      split
      · next hn => exact .one (.drop hst hrun (.inr hn))
      · next d st hrs =>
        obtain ⟨hd, hdesc⟩ := runningStage_eq_some.1 hrs
        exact moves_stageEnded ⟨hst, hrun, by simpa using ha, hd, hdesc⟩
  · exact .refl s

/-! ## Requests -/

theorem moves_defineLoop (p : List Byte) (s : State) : Moves s (reqDefineLoop p s).1 := by
  unfold reqDefineLoop
  split
  · exact .refl s
  · split
    · next i d bank _ hp =>
      obtain ⟨sts, hr⟩ := parseDefinition_eq_some.1 hp
      split
      · next hs =>
        exact .trans (.one (.loop i (.define hs hr.legal hr.bankFits))) (.same (sameCore_refreshAlert _))
      · exact .refl s
    · exact .refl s

/-- The action of a mask request on the named loops, each change made by a function of the entry, is a chain of
moves where it is one for every entry that passed the check. -/
theorem moves_maskRequest_modLoop {s : State} (p : List Byte) {check : LoopEntry → Option Result}
    {g : LoopEntry → LoopEntry}
    (hg : ∀ l l' : LoopEntry, check l ≠ some .badLoop → check l ≠ some .mode → check l ≠ some .state →
      l'.core = l.core → l'.core = (g l').core ∨ LoopMove s.ctl.mode l'.core (g l').core) :
    Moves s (s.maskRequest p check fun m t => t.eachNamed m fun i u => u.modLoop i g).1 := by
  rcases maskRequest_cases s p check (fun m t => t.eachNamed m fun i u => u.modLoop i g) with h | ⟨h, hcheck⟩
  · rw [h]
    exact .refl s
  · rw [h]
    refine moves_eachNamed (fun i t j hj => by rw [loop_modLoop_ne _ _ hj]) (fun _ _ => rfl) fun i t hn hm hc => ?_
    obtain ⟨hb, hmode, hstate⟩ := hcheck i hn
    rcases hg _ _ hb hmode hstate hc with he | he
    · exact .same (sameCore_modLoop t i he.symm)
    · exact .modLoop (by rw [hm]; exact he)

theorem moves_armLoop (p : List Byte) (s : State) : Moves s (reqArmLoop p s).1 := by
  refine moves_maskRequest_modLoop p fun l l' hb _ hs hc => ?_
  have hstate : l'.state = l.state := congrArg LoopCore.state hc
  unfold LoopEntry.arm
  unfold armCheck at hb hs
  rw [← hstate] at hb hs
  split
  · exact .inl rfl
  · next hna =>
    have he : l'.state ≠ .empty := fun e => hb (by rw [e])
    have ha : l'.state ≠ .active := fun e => hs (by rw [e])
    exact .inr (.arm (c := l'.core) (first := fun d => firstRelease s.time.tick d.period d.offset) he ha (.inr rfl))

theorem moves_unholdLoop (p : List Byte) (s : State) : Moves s (reqUnholdLoop p s).1 := by
  refine moves_maskRequest_modLoop p fun l l' hb _ hs hc => ?_
  have hstate : l'.state = l.state := congrArg LoopCore.state hc
  unfold unholdCheck at hb hs
  rw [← hstate] at hb hs
  have he : l'.state ≠ .empty := fun e => hb (by rw [e])
  have ha : l'.state ≠ .active := fun e => hs (by rw [e])
  exact .inr (.arm (c := l'.core) (first := fun d => firstRelease s.time.tick d.period d.offset) he ha (.inl rfl))

theorem holdLoop_core_ne (s : State) {i j : LoopId} (h : j ≠ i) :
    ((s.holdLoop i).loop j).core = (s.loop j).core := by
  unfold State.holdLoop
  split
  · rfl
  · rw [enterHeld_core_ne _ _ h, endInstance_loop_ne _ h]

theorem holdLoop_mode (s : State) (i : LoopId) : (s.holdLoop i).ctl.mode = s.ctl.mode := by
  unfold State.holdLoop
  split
  · rfl
  · obtain ⟨u, ls, h⟩ := enterHeld_only (s.endInstance i) i fun l =>
      { l with state := .held .host, nextRelease := none, safeSub := l.heldSafeSub }
    rw [h]
    rfl

theorem moves_enterHeld {s : State} {i : LoopId} {f : LoopEntry → LoopEntry}
    (h : LoopMove s.ctl.mode (s.loop i).core (f (s.loop i)).core) : Moves s (s.enterHeld i f) := by
  unfold State.enterHeld
  dsimp only
  split
  · exact .trans (.modLoop h) (.same (sameCore_safeOutput _ i))
  · exact .modLoop h

theorem moves_holdLoop {s : State} {i : LoopId} (he : (s.loop i).state ≠ .empty) : Moves s (s.holdLoop i) := by
  unfold State.holdLoop
  split
  · exact .refl s
  · refine .trans (.one (.endInstance s i)) (moves_enterHeld ?_)
    rw [endInstance_loop_self]
    exact .leave rfl (.inl he) (.inl rfl)

theorem moves_reqHoldLoop (p : List Byte) (s : State) : Moves s (reqHoldLoop p s).1 := by
  rcases maskRequest_cases s p holdCheck (fun m t => (t.eachNamed m fun i u => u.holdLoop i).settleChoice)
    with h | ⟨h, hcheck⟩
  · rw [reqHoldLoop, h]
    exact .refl s
  · rw [reqHoldLoop, h]
    refine .trans (moves_eachNamed (fun i t j hj => holdLoop_core_ne t hj) (fun i t => holdLoop_mode t i)
      fun i t hn hm hc => moves_holdLoop fun he => ?_) (.one (.settle _))
    refine (hcheck i hn).1 ?_
    have hstate : (t.loop i).state = (s.loop i).state := congrArg LoopCore.state hc
    rw [holdCheck, ← hstate, he]

theorem moves_clearLoop (s : State) (i : LoopId) : Moves s (s.clearLoop i) := by
  unfold State.clearLoop
  split
  · exact .refl s
  · refine .trans (.one (.endInstance s i)) (.one (.loop i (.clear ?_)))
    rw [endInstance_loop_self]
    rfl

theorem moves_reqClearLoop (p : List Byte) (s : State) : Moves s (reqClearLoop p s).1 := by
  rcases maskRequest_cases s p (fun _ => none)
    (fun m t => (t.eachNamed m fun i u => u.clearLoop i).refreshAlert.settleChoice) with h | ⟨h, -⟩
  · rw [reqClearLoop, h]
    exact .refl s
  · rw [reqClearLoop, h]
    refine .trans (.trans (moves_eachLoop (fun i t => ?_) s) (.same (sameCore_refreshAlert _))) (.one (.settle _))
    split
    · exact moves_clearLoop t i
    · exact .refl t

/-- The words a preset writes are those the op of its stage uses, within their ranges (R5, R20). -/
theorem presetFor_fits {d : Definition} {q : Preset} {w : Nat × Proposal} (h : presetFor d q = some w) :
    ∃ st, d.stages[w.1]? = some st ∧ ProposalFits (some st.op) w.2 := by
  unfold presetFor at h
  split at h
  · cases h
  · next st hst =>
    split at h
    · next v hv =>
      cases h
      refine ⟨st, hst, ?_⟩
      unfold presetProposal at hv
      cases hop : st.op with
      | lpf =>
        rw [hop] at hv
        cases hv
        rfl
      | pid =>
        rw [hop] at hv
        obtain ⟨⟨h1, h2, h3, h4⟩, he⟩ := Option.ite_none_right_eq_some.1 (Option.some.inj hv)
        cases he
        exact ⟨h1, h2, q.word2, rfl, h3, h4⟩
      | limit =>
        rw [hop] at hv
        obtain ⟨⟨h1, h2⟩, he⟩ := Option.ite_none_right_eq_some.1 (Option.some.inj hv)
        cases he
        exact ⟨h1, h2, rfl⟩
      | gain => rw [hop] at hv; cases hv
      | sum => rw [hop] at hv; cases hv
      | div => rw [hop] at hv; cases hv
      | rotate => rw [hop] at hv; cases hv
      | atan => rw [hop] at hv; cases hv
    · cases h

theorem presetsFor_fits {d : Definition} {qs : List Preset} {ws : List (Nat × Proposal)} (h : presetsFor d qs = some ws) :
    ∀ w ∈ ws, ∃ st, d.stages[w.1]? = some st ∧ ProposalFits (some st.op) w.2 := by
  induction qs generalizing ws with
  | nil =>
    cases h
    simp
  | cons q rest ih =>
    rw [presetsFor] at h
    split at h
    · next w ws' hw hws =>
      cases h
      intro x hx
      rcases List.mem_cons.1 hx with rfl | hx
      · exact presetFor_fits hw
      · exact ih hws x hx
    · cases h

theorem moves_presetLoop (p : List Byte) (s : State) : Moves s (reqPresetLoop p s).1 := by
  unfold reqPresetLoop
  split
  · exact .refl s
  · dsimp only
    split
    · exact .refl s
    · next i _ =>
      split
      · exact .refl s
      · split
        · exact .refl s
        · next d hd =>
          split
          · exact .refl s
          · next ws hws =>
            split
            · exact .refl s
            · split
              · exact .refl s
              · exact Moves.modLoop (s := s) (i := i) (f := fun l => l.preset (word16At p 1) ws)
                  (.preset hd (presetsFor_fits hws))

theorem moves_loadCoef (p : List Byte) (s : State) : Moves s (reqLoadCoef p s).1 := by
  unfold reqLoadCoef
  split
  · exact .refl s
  · dsimp only
    split
    · exact .refl s
    · next i _ =>
      split
      · exact .refl s
      · split
        · exact .refl s
        · next d hd =>
          split
          · exact .refl s
          · next hlegal =>
            split
            · exact .refl s
            · simp only [loadLegal, Bool.not_eq_false] at hlegal
              split at hlegal
              · cases hlegal
              · next st hst =>
                exact Moves.modLoop (s := s) (i := i) (f := fun l => l.loadCoef (byteAt p 1).toNat (coefsAt p 2))
                  (.load hd hst ((coefsLegal_iff _ _).1 hlegal))

theorem moves_commit (s : State) (m : LoopMask) {g : LoopEntry → LoopEntry}
    (hg : ∀ l, l.core = (g l).core ∨ LoopMove s.ctl.mode l.core (g l).core) : Moves s (s.commit m g).1 := by
  unfold State.commit
  split
  · exact .refl s
  · split
    · exact .refl s
    · refine moves_eachNamed (f := fun i t => t.modLoop i g) (fun i t j hj => by rw [loop_modLoop_ne _ _ hj])
        (fun _ _ => rfl) fun i t _ hm _ => ?_
      rcases hg (t.loop i) with he | he
      · exact .same (sameCore_modLoop t i he.symm)
      · exact .modLoop (by rw [hm]; exact he)

theorem moves_commitCoef (p : List Byte) (s : State) : Moves s (reqCommitCoef p s).1 := by
  unfold reqCommitCoef
  split
  · exact .refl s
  · split
    · refine moves_commit s _ fun l => ?_
      unfold LoopEntry.apply
      split
      · exact .inl rfl
      · exact .inr .commit
    · exact moves_commit s _ fun l => .inr .discard
    · exact .refl s

theorem moves_clearAlarms (p : List Byte) (s : State) : Moves s (reqClearAlarms p s).1 := by
  unfold reqClearAlarms
  split
  · exact .refl s
  · split
    · exact .refl s
    · split
      · exact .refl s
      · exact .same ((sameCore_eachNamed (fun i t => sameCore_modLoop t i rfl) _ s).trans (sameCore_refreshAlert _))

theorem moves_maskAlarms (p : List Byte) (s : State) : Moves s (reqMaskAlarms p s).1 := by
  unfold reqMaskAlarms
  split
  · exact .refl s
  · split
    · exact .refl s
    · split
      · exact .refl s
      · split
        · exact .refl s
        · exact .same ((sameCore_eachNamed (fun i t => sameCore_remask t i _) _ s).trans (sameCore_refreshAlert _))

theorem moves_configure (p : List Byte) (s : State) : Moves s (reqConfigure p s).1 := by
  unfold reqConfigure
  split
  · exact .refl s
  · dsimp only
    split
    · exact .refl s
    · split
      · exact .refl s
      · exact .same (.of_eq rfl rfl rfl rfl rfl)

theorem moves_enterSafe (p : List Byte) (s : State) : Moves s (reqEnterSafe p s).1 := by
  unfold reqEnterSafe
  split
  · exact .refl s
  · exact moves_claimSafe s .host

theorem moves_resume (p : List Byte) (s : State) : Moves s (reqResume p s).1 := by
  unfold reqResume
  split
  · exact .refl s
  · split
    · exact .refl s
    · next hl =>
      split
      · exact .refl s
      · next hm => exact moves_enterRun hm hl

theorem moves_reset (p : List Byte) (s : State) : Moves s (reqReset p s).1 := by
  unfold reqReset
  split
  · exact .refl s
  · exact .same (.of_eq rfl rfl rfl rfl rfl)

theorem moves_clearCause (p : List Byte) (s : State) : Moves s (reqClearCause p s).1 := by
  unfold reqClearCause
  split
  · exact .refl s
  · exact .same (.of_eq rfl rfl rfl rfl rfl)

theorem moves_writeSamples (p : List Byte) (s : State) : Moves s (reqWriteSamples p s).1 := by
  unfold reqWriteSamples
  dsimp only
  split
  · exact .refl s
  · split
    · exact .refl s
    · split
      · exact .refl s
      · exact .same (sameCore_writeSlots s _ _)

/-- A request that reads changes nothing. -/
theorem reqReads_only (p : List Byte) (s : State) :
    (reqIdentify p s).1 = s ∧ (reqStatus p s).1 = s ∧ (reqPing p s).1 = s ∧ (reqReadLoop p s).1 = s
      ∧ (reqReadCoef p s).1 = s ∧ (reqReadSamples p s).1 = s ∧ (reqReadAlarms p s).1 = s := by
  refine ⟨?_, ?_, ?_, ?_, ?_, ?_, ?_⟩
  · unfold reqIdentify; split <;> rfl
  · unfold reqStatus; split <;> rfl
  · unfold reqPing; split <;> rfl
  · unfold reqReadLoop
    split
    · rfl
    · split <;> rfl
  · unfold reqReadCoef
    split
    · rfl
    · split
      · rfl
      · split <;> rfl
  · unfold reqReadSamples
    split
    · rfl
    · dsimp only
      split <;> rfl
  · unfold reqReadAlarms; split <;> rfl

theorem moves_judge (f : Frame) (s : State) : Moves s (judge f s).1 := by
  obtain ⟨h1, h2, h3, h4, h5, h6, h7⟩ := reqReads_only f.payload s
  unfold judge carryOut
  split
  · next r hr =>
    split at hr <;> cases hr
    · exact .same (by rw [h1]; exact .refl s)
    · exact .same (by rw [h2]; exact .refl s)
    · exact moves_configure _ s
    · exact .same (by rw [h3]; exact .refl s)
    · exact moves_enterSafe _ s
    · exact moves_resume _ s
    · exact moves_reset _ s
    · exact moves_clearCause _ s
    · exact moves_defineLoop _ s
    · exact moves_armLoop _ s
    · exact moves_reqHoldLoop _ s
    · exact moves_unholdLoop _ s
    · exact moves_reqClearLoop _ s
    · exact .same (by rw [h4]; exact .refl s)
    · exact moves_presetLoop _ s
    · exact moves_loadCoef _ s
    · exact moves_commitCoef _ s
    · exact .same (by rw [h5]; exact .refl s)
    · exact moves_writeSamples _ s
    · exact .same (by rw [h6]; exact .refl s)
    · exact .same (by rw [h7]; exact .refl s)
    · exact moves_clearAlarms _ s
    · exact moves_maskAlarms _ s
  · exact .refl s

theorem moves_serve (s : State) (f : Frame) : Moves s (s.serve f) :=
  (moves_judge f s).trans <| .trans (t := (judge f s).1.respond f (judge f s).2) (.same (.of_eq rfl rfl rfl rfl rfl)) <|
    .same (sameCore_transmitAfterResponse _)

theorem moves_dispatchUpTo (s : State) (n : Nat) : Moves s (s.dispatchUpTo n) := by
  induction n generalizing s with
  | zero => exact .refl s
  | succ n ih =>
    unfold State.dispatchUpTo
    split
    · exact .refl s
    · next f rest _ =>
      split
      · have h : Moves s { s with link := { s.link with slots := rest } } := .same (.of_eq rfl rfl rfl rfl rfl)
        exact h.trans ((moves_serve _ f).trans (ih _))
      · exact .refl s

theorem moves_dispatch (s : State) : Moves s s.dispatch := moves_dispatchUpTo s _

theorem moves_submit (s : State) (kind tag : Byte) (p : List Byte) : Moves s (s.submit kind tag p) :=
  .trans (.same (sameCore_placeInSlot s _)) (moves_dispatch _)

/-! ## The line -/

/-- A change of the LEC judges the link: only its entry to MUTE reaches the loops, through SAFE (R164, R165). -/
theorem moves_changeLec (s : State) (lec : BitVec 8) : Moves s (s.changeLec lec) := by
  have hlink : ∀ (l : LinkState) (b : BitVec 8) (t : State), l ≠ .mute ∨ l = s.link.state →
      t.link.state = l → SameCore { s with link := { s.link with lec := b, state := l } } t → Moves s t := by
    intro l b t hl ht h
    rcases hl with hl | hl
    · exact .one (.link l (fun _ => hl) ht ⟨h.loop, h.cu, h.mode, h.safeN, h.link⟩)
    · exact .same ⟨h.loop, h.cu, h.mode, h.safeN, h.link.trans hl⟩
  unfold State.changeLec
  dsimp only
  cases hb : s.link.state with
  | ok =>
    cases ha : judgeLink .ok lec with
    | ok => exact hlink .ok lec _ (.inl nofun) rfl (.refl _)
    | warn => exact hlink .warn lec _ (.inl nofun) rfl (sameCore_offerEngine _ _)
    | mute =>
      dsimp only
      refine moves_claimSafe_of ?_ _
      exact ⟨fun _ => rfl, rfl, rfl, rfl, rfl⟩
  | warn =>
    cases ha : judgeLink .warn lec with
    | ok => exact hlink .ok lec _ (.inl nofun) rfl (sameCore_offerEngine _ _)
    | warn => exact hlink .warn lec _ (.inl nofun) rfl (.refl _)
    | mute =>
      dsimp only
      refine moves_claimSafe_of ?_ _
      exact ⟨fun _ => rfl, rfl, rfl, rfl, rfl⟩
  | mute =>
    cases ha : judgeLink .mute lec with
    | ok => exact hlink .ok lec _ (.inl nofun) rfl ⟨fun _ => rfl, rfl, rfl, rfl, rfl⟩
    | warn => exact hlink .warn lec _ (.inl nofun) rfl (.refl _)
    | mute => exact hlink .mute lec _ (.inr hb.symm) rfl (.refl _)

theorem moves_raiseLec (s : State) (n : Nat) : Moves s (s.raiseLec n) := moves_changeLec s _

theorem moves_lineError (s : State) (f : LinkCounters → LinkCounters) (n : Nat) :
    Moves s ((s.toHunt.modCounters f).raiseLec n).transmit :=
  .trans (t := s.toHunt.modCounters f) (.same (.of_eq rfl rfl rfl rfl rfl)) <|
    (moves_raiseLec _ n).trans (.same (sameCore_transmit _))

theorem moves_framingErrorEvent (s : State) : Moves s s.framingErrorEvent := by
  unfold State.framingErrorEvent
  split
  · exact .refl s
  · exact moves_lineError s _ 4

theorem moves_arrive (s : State) (kind : Byte) : Moves s (s.arrive kind) := by
  have h : Moves s { s.toHunt.restartSupervision with
      link := { s.toHunt.restartSupervision.link with startUpHold := false } } := .same (.of_eq rfl rfl rfl rfl rfl)
  unfold State.arrive
  dsimp only
  split
  · exact h
  · exact h.trans (moves_changeLec _ _)

theorem moves_goodFrame (s : State) (kind tag : Byte) (p : List Byte) : Moves s (s.goodFrame kind tag p) := by
  unfold State.goodFrame
  split
  · exact (moves_arrive s kind).trans (.same ((sameCore_passAck _ p).trans (sameCore_transmit _)))
  · exact (moves_arrive s kind).trans ((moves_submit _ kind tag p).trans (.same (sameCore_transmit _)))

theorem moves_dropFirst (s : State) : Moves s s.dropFirst := by
  have h : Moves s
      { s with rep := { s.rep with store := s.rep.store.tail, droppedCount := satInc s.rep.droppedCount } } :=
    .same (.of_eq rfl rfl rfl rfl rfl)
  exact h.trans ((moves_raiseLec _ 8).trans (.same ((sameCore_admitOwed _).trans (sameCore_offerEngine _ _))))

theorem moves_retryExpiry (s : State) : Moves s s.retryExpiry := by
  have hexpire : Moves s { s with rep := s.rep.expire } := .same (.of_eq rfl rfl rfl rfl rfl)
  have hdrop : Moves s
      (if s.rep.expire.overLimit then State.dropFirst { s with rep := s.rep.expire } else { s with rep := s.rep.expire }) := by
    split
    · exact hexpire.trans (moves_dropFirst _)
    · exact hexpire
  have hrearm : ∀ u : State, Moves u (State.transmit { u with rep := u.rep.rearmTimer u.link.isMute }) := fun u =>
    .trans (t := { u with rep := u.rep.rearmTimer u.link.isMute }) (.same (.of_eq rfl rfl rfl rfl rfl))
      (.same (sameCore_transmit _))
  exact hdrop.trans (hrearm _)

theorem loop_replicate_reset {s : State} (h : s.loops = Vector.replicate 16 LoopEntry.reset) (i : LoopId) :
    s.loop i = LoopEntry.reset := by
  simp [State.loop, h]

theorem moves_fullReset (s : State) (c : ResetCause) (b : Bool) (straps : Straps) :
    Moves s (s.fullReset c b straps) :=
  .one (.reset (fun i => loop_replicate_reset rfl i) rfl rfl rfl)

theorem moves_startUp (s : State) (b : Bool) : Moves s (s.startUp b) := .same (.of_eq rfl rfl rfl rfl rfl)

theorem moves_commandReset (s : State) (straps : Straps) (b : Bool) : Moves s (s.commandReset straps b) :=
  (moves_fullReset s _ _ straps).trans (moves_startUp _ b)

theorem moves_breakEffects (s : State) : Moves s s.breakEffects := by
  unfold State.breakEffects
  dsimp only
  split
  · exact .one (.link .ok (fun _ => nofun) rfl ⟨fun _ => rfl, rfl, rfl, rfl, rfl⟩)
  · exact .one (.link .ok (fun _ => nofun) rfl ⟨fun _ => rfl, rfl, rfl, rfl, rfl⟩)

theorem moves_breakEvent (s : State) (straps : Straps) : Moves s (s.breakEvent straps) := by
  unfold State.breakEvent
  split
  · exact .refl s
  · split
    · exact (moves_breakEffects s).trans (moves_commandReset _ straps true)
    · exact (moves_breakEffects s).trans (.same (sameCore_transmit _))

theorem moves_receiveByte (s : State) (b : Byte) : Moves s (s.receiveByte b) := by
  have hrx : ∀ rx, Moves s (s.receiving rx) := fun rx => .same (.of_eq rfl rfl rfl rfl rfl)
  unfold State.receiveByte
  split
  · split
    · exact hrx _
    · exact .refl s
  · exact hrx _
  · exact hrx _
  · unfold State.lengthByte
    split
    · exact moves_lineError s _ 8
    · split <;> exact hrx _
  · dsimp only
    split <;> exact hrx _
  · exact hrx _
  · unfold State.frameEnded
    split
    · exact moves_goodFrame s _ _ _
    · exact moves_lineError s _ 8

theorem moves_frameEndEvent (s : State) (straps : Straps) (b : Bool) : Moves s (s.frameEndEvent straps b) := by
  unfold State.frameEndEvent
  split
  · exact .refl s
  · exact moves_commandReset s straps b
  · have h : Moves s { s with link := { s.link with tx := .idle } } := .same (.of_eq rfl rfl rfl rfl rfl)
    exact h.trans (.trans (.same (sameCore_transmit _)) (moves_dispatch _))

/-! ## The commands -/

theorem moves_whenRunning {s t : State} {f : State → State} (hf : ∀ u, Moves u (f u)) (h : s.whenRunning f = .next t) :
    Moves s t := by
  unfold State.whenRunning at h
  cases h
  split
  · exact hf s
  · exact .refl s

theorem moves_whenTaking {s t : State} {f : State → State} (hf : ∀ u, Moves u (f u)) (h : s.whenTaking f = .next t) :
    Moves s t :=
  moves_whenRunning (fun u => by
    split
    · exact hf u
    · exact .refl u) h

/-- A command's meaning is a chain of moves. -/
theorem moves_exec {c : Instr} {s t : State} (h : exec c s = .next t) : Moves s t := by
  cases hf : requestFrame c with
  | some fr =>
    rw [exec_request hf] at h
    exact moves_whenRunning (fun u => moves_submit u _ _ _) h
  | none =>
    cases c <;> simp only [requestFrame, reduceCtorEq] at hf
    case reportAck tag p => exact moves_whenTaking (fun u => moves_goodFrame u _ tag p) h
    case goodFrame kind tag p => exact moves_whenTaking (fun u => moves_goodFrame u kind tag p) h
    case crcError => exact moves_whenTaking (fun u => moves_lineError u _ 8) h
    case lengthError => exact moves_whenTaking (fun u => moves_lineError u _ 8) h
    case framingError data =>
      simp only [exec, execFramingError] at h
      refine moves_whenTaking (fun u => ?_) h
      split
      · exact .same (.of_eq rfl rfl rfl rfl rfl)
      · exact moves_framingErrorEvent u
    case gapTimerExpiry =>
      simp only [exec, execGapTimerExpiry] at h
      refine moves_whenRunning (fun u => ?_) h
      split
      · exact moves_lineError u _ 4
      · exact .refl u
    case lineBreak straps => exact moves_whenRunning (fun u => moves_breakEvent u straps) h
    case startUpHoldEnd =>
      simp only [exec, execStartUpHoldEnd] at h
      refine moves_whenTaking (fun u => ?_) h
      split
      · exact .trans (t := { u with link := { u.link with startUpHold := false } })
          (.same (.of_eq rfl rfl rfl rfl rfl)) (.same (sameCore_transmit _))
      · exact .refl u
    case powerOnReset straps =>
      cases h
      exact moves_fullReset s _ _ straps
    case pinReset straps =>
      cases h
      exact moves_fullReset s _ _ straps
    case startUp b =>
      cases h
      split
      · exact moves_startUp s b
      · exact .refl s
    case frameEnd straps b => exact moves_whenRunning (fun u => moves_frameEndEvent u straps b) h
    case tick =>
      exact moves_whenRunning (fun u => (moves_takeDueReleases u).trans (moves_tickEvent _)) h
    case release i => exact moves_whenRunning (fun u => moves_releaseEvent u i) h
    case stageCompletion => exact moves_whenRunning moves_stageCompletion h
    case retryTimerExpiry =>
      simp only [exec, execRetryTimerExpiry] at h
      refine moves_whenRunning (fun u => ?_) h
      split
      · exact moves_retryExpiry u
      · exact .refl u
    case supervisionExpiry =>
      simp only [exec, execSupervisionExpiry] at h
      refine moves_whenRunning (fun u => ?_) h
      split
      · exact (moves_claimSafe u .supervision).trans
          (.trans (t := (u.claimSafe .supervision).restartSupervision) (.same (.of_eq rfl rfl rfl rfl rfl))
            (.same (sameCore_transmit _)))
      · exact .refl u
    case byteReceived b => exact moves_whenTaking (fun u => moves_receiveByte u b) h
    case rxdReturnsHigh =>
      simp only [exec, execRxdReturnsHigh] at h
      refine moves_whenRunning (fun u => ?_) h
      have hr : Moves u { u with link := { u.link with rxd := .taking } } := .same (.of_eq rfl rfl rfl rfl rfl)
      split
      · exact hr.trans (moves_framingErrorEvent _)
      · exact hr

/-- Every step is a chain of moves. -/
theorem moves_step {s t : State} (h : step s = .next t) : Moves s t := by
  unfold step at h
  split at h
  · cases h
    exact .refl s
  · next c rest _ =>
    exact .trans (t := s.withPending rest) (.same (.of_eq rfl rfl rfl rfl rfl)) (moves_exec h)

/-- What every move keeps, every step keeps. -/
theorem step_keeps {P : State → Prop} (hP : ∀ s t, P s → Move s t → P t) {s t : State} (hs : P s)
    (h : step s = .next t) : P t := (moves_step h).keeps hP hs

end Sys2Proof.Machine
end

section
/-! SUPPORT. Where the instances stand: the computation unit and the loops' instance statuses agree, operation by
operation (R97 to R116). -/

namespace Sys2Proof.Machine

/-- The instance statuses `st` say where the instances of the unit stand, and the unit is in order (R97 to R99, R102,
R108, R116): the part of `UnitInv` that is about the unit and the statuses alone. -/
structure Placed (st : LoopId → InstanceStatus) (u : CompUnit) : Prop where
  due : ∀ i, st i = .due ↔ ∃ x ∈ u.due, x.loop = i
  stack : ∀ i, st i = .suspended ↔ ∃ x ∈ u.stack, x.loop = i
  running : ∀ i, st i = .running ↔ ∃ x, u.running = some x ∧ x.abandoned = false ∧ x.loop = i
  dueOnce : (u.due.map (·.loop)).Nodup
  stackOnce : (u.stack.map (·.loop)).Nodup
  depth : u.stack.length ≤ 3
  order : (u.stack.map fun x => (x.priority : Nat)).Pairwise (· < ·)
  runningOrder : ∀ x, u.running = some x → ∀ y ∈ u.stack, (x.priority : Nat) < (y.priority : Nat)
  idleEmpty : u.state = .idle → u.due = [] ∧ u.running = none ∧ u.stack = []
  stageRunning : u.state = .stage → u.running.isSome = true
  choiceLive : u.state = .choice → ∀ x, u.running = some x → x.abandoned = false
  waitingLive : ∀ x ∈ u.due ++ u.stack, x.abandoned = false

/-- An instance is live when it waits in the due queue or on the stack, or runs without the abandon mark (R98). -/
theorem mem_live {u : CompUnit} {x : Instance} :
    x ∈ u.live ↔ x ∈ u.due ∨ (u.running = some x ∧ x.abandoned = false) ∨ x ∈ u.stack := by
  simp only [CompUnit.live, List.mem_append, List.mem_filter, Option.mem_toList, Bool.not_eq_true',
    or_assoc]

/-- The instances of a list that are not of loop `i`. -/
theorem mem_without {i : LoopId} {l : List Instance} {x : Instance} : x ∈ without i l ↔ x ∈ l ∧ x.loop ≠ i := by
  simp [without]

theorem without_sublist (i : LoopId) (l : List Instance) : (without i l).Sublist l := List.filter_sublist

/-- The instances of another loop than the head's stand in the tail. -/
theorem exists_mem_tail {b : Instance} {q : List Instance} {i : LoopId}
    (hi : i ≠ b.loop) : (∃ x ∈ b :: q, x.loop = i) ↔ ∃ x ∈ q, x.loop = i := by
  constructor
  · rintro ⟨x, hx, rfl⟩
    rcases List.mem_cons.1 hx with rfl | hx
    · exact absurd rfl hi
    · exact ⟨x, hx, rfl⟩
  · rintro ⟨x, hx, rfl⟩
    exact ⟨x, List.mem_cons_of_mem b hx, rfl⟩

/-- With at most one instance a loop, the head's loop has none in the tail. -/
theorem not_mem_tail {b : Instance} {q : List Instance} (h : ((b :: q).map (·.loop)).Nodup) :
    ¬∃ x ∈ q, x.loop = b.loop := by
  rintro ⟨x, hx, he⟩
  rw [List.map_cons, List.nodup_cons] at h
  exact h.1 (he ▸ List.mem_map_of_mem (f := fun x : Instance => x.loop) hx)

/-- An insertion adds its instance and keeps every other (R99). -/
theorem insertDue_perm (now : Tick) (x : Instance) (l : List Instance) : (insertDue now x l).Perm (x :: l) := by
  induction l with
  | nil => exact .refl _
  | cons e rest ih =>
    rw [insertDue]
    split
    · exact (ih.cons e).trans (.swap x e rest)
    · exact .refl _

namespace Placed

variable {st : LoopId → InstanceStatus} {u : CompUnit} (h : Placed st u)
include h

/-- A loop has an instance status other than NONE exactly while it has a live instance (R9, R10). -/
theorem live_iff (i : LoopId) : st i ≠ .noInstance ↔ ∃ x ∈ u.live, x.loop = i := by
  constructor
  · intro hne
    cases hi : st i with
    | noInstance => exact absurd hi hne
    | due =>
      obtain ⟨x, hx, hl⟩ := (h.due i).1 hi
      exact ⟨x, mem_live.2 (.inl hx), hl⟩
    | running =>
      obtain ⟨x, hx, ha, hl⟩ := (h.running i).1 hi
      exact ⟨x, mem_live.2 (.inr (.inl ⟨hx, ha⟩)), hl⟩
    | suspended =>
      obtain ⟨x, hx, hl⟩ := (h.stack i).1 hi
      exact ⟨x, mem_live.2 (.inr (.inr hx)), hl⟩
  · rintro ⟨x, hx, hl⟩ hi
    rcases mem_live.1 hx with hx | ⟨hx, ha⟩ | hx
    · exact absurd ((h.due i).2 ⟨x, hx, hl⟩) (by rw [hi]; nofun)
    · exact absurd ((h.running i).2 ⟨x, hx, ha, hl⟩) (by rw [hi]; nofun)
    · exact absurd ((h.stack i).2 ⟨x, hx, hl⟩) (by rw [hi]; nofun)

theorem not_due {i : LoopId} (hi : st i ≠ .due) : ¬∃ x ∈ u.due, x.loop = i := fun hx => hi ((h.due i).2 hx)
theorem not_stack {i : LoopId} (hi : st i ≠ .suspended) : ¬∃ x ∈ u.stack, x.loop = i := fun hx => hi ((h.stack i).2 hx)
theorem not_running {i : LoopId} (hi : st i ≠ .running) :
    ¬∃ x, u.running = some x ∧ x.abandoned = false ∧ x.loop = i := fun hx => hi ((h.running i).2 hx)

/-- A unit in order is in order with the due instance of a loop taken away (R111). -/
theorem endDue {i : LoopId} (hi : st i = .due) :
    Placed (Function.update st i .noInstance) { u with due := without i u.due } where
  due j := by
    by_cases hj : j = i
    · subst hj
      simp [mem_without]
    · rw [Function.update_of_ne hj, h.due j]
      exact exists_congr fun x => ⟨fun ⟨hx, hl⟩ => ⟨mem_without.2 ⟨hx, hl ▸ hj⟩, hl⟩,
        fun ⟨hx, hl⟩ => ⟨(mem_without.1 hx).1, hl⟩⟩
  stack j := by
    by_cases hj : j = i
    · subst hj
      simpa using h.not_stack (i := j) (by rw [hi]; nofun)
    · rw [Function.update_of_ne hj, h.stack j]
  running j := by
    by_cases hj : j = i
    · subst hj
      simpa using h.not_running (i := j) (by rw [hi]; nofun)
    · rw [Function.update_of_ne hj, h.running j]
  dueOnce := h.dueOnce.sublist ((without_sublist i u.due).map _)
  stackOnce := h.stackOnce
  depth := h.depth
  order := h.order
  runningOrder := h.runningOrder
  idleEmpty hs := by
    obtain ⟨h1, h2, h3⟩ := h.idleEmpty hs
    exact ⟨by rw [h1]; rfl, h2, h3⟩
  stageRunning := h.stageRunning
  choiceLive := h.choiceLive
  waitingLive x hx := h.waitingLive x <| by
    rcases List.mem_append.1 hx with hx | hx
    · exact List.mem_append_left _ (mem_without.1 hx).1
    · exact List.mem_append_right _ hx

/-- A unit in order is in order with the suspended instance of a loop taken away (R112). -/
theorem endSuspended {i : LoopId} (hi : st i = .suspended) :
    Placed (Function.update st i .noInstance) { u with stack := without i u.stack } where
  due j := by
    by_cases hj : j = i
    · subst hj
      simpa using h.not_due (i := j) (by rw [hi]; nofun)
    · rw [Function.update_of_ne hj, h.due j]
  stack j := by
    by_cases hj : j = i
    · subst hj
      simp [mem_without]
    · rw [Function.update_of_ne hj, h.stack j]
      exact exists_congr fun x => ⟨fun ⟨hx, hl⟩ => ⟨mem_without.2 ⟨hx, hl ▸ hj⟩, hl⟩,
        fun ⟨hx, hl⟩ => ⟨(mem_without.1 hx).1, hl⟩⟩
  running j := by
    by_cases hj : j = i
    · subst hj
      simpa using h.not_running (i := j) (by rw [hi]; nofun)
    · rw [Function.update_of_ne hj, h.running j]
  dueOnce := h.dueOnce
  stackOnce := h.stackOnce.sublist ((without_sublist i u.stack).map _)
  depth := (without_sublist i u.stack).length_le.trans h.depth
  order := h.order.sublist ((without_sublist i u.stack).map _)
  runningOrder x hx y hy := h.runningOrder x hx y (mem_without.1 hy).1
  idleEmpty hs := by
    obtain ⟨h1, h2, h3⟩ := h.idleEmpty hs
    exact ⟨h1, h2, by rw [h3]; rfl⟩
  stageRunning := h.stageRunning
  choiceLive := h.choiceLive
  waitingLive x hx := h.waitingLive x <| by
    rcases List.mem_append.1 hx with hx | hx
    · exact List.mem_append_left _ hx
    · exact List.mem_append_right _ (mem_without.1 hx).1

/-- The running slot given up by the instance of its loop, be it emptied or left to an abandoned instance, in a state
of the unit that allows it (R104, R113). -/
theorem endRunning {x : Instance} (hx : u.running = some x) (ha : x.abandoned = false) {y : Option Instance}
    {state : UnitState} (hy : ∀ z, y = some z → z.abandoned = true ∧ z.priority = x.priority)
    (hidle : state ≠ .idle) (hstage : state = .stage → y.isSome = true) (hchoice : state = .choice → y = none) :
    Placed (Function.update st x.loop .noInstance) { u with running := y, state := state } := by
  have hst : st x.loop = .running := (h.running _).2 ⟨x, hx, ha, rfl⟩
  refine ⟨fun j => ?_, fun j => ?_, fun j => ?_, h.dueOnce, h.stackOnce, h.depth, h.order, fun z hz => ?_,
    fun hs => absurd hs hidle, hstage, fun hs z hz => ?_, h.waitingLive⟩
  · by_cases hj : j = x.loop
    · subst hj
      simpa using h.not_due (i := x.loop) (by rw [hst]; nofun)
    · rw [Function.update_of_ne hj, h.due j]
  · by_cases hj : j = x.loop
    · subst hj
      simpa using h.not_stack (i := x.loop) (by rw [hst]; nofun)
    · rw [Function.update_of_ne hj, h.stack j]
  · have hno : ¬∃ z, y = some z ∧ z.abandoned = false ∧ z.loop = j := by
      rintro ⟨z, hz, hza, -⟩
      rw [(hy z hz).1] at hza
      cases hza
    by_cases hj : j = x.loop
    · subst hj
      simpa using hno
    · rw [Function.update_of_ne hj, h.running j]
      refine ⟨?_, fun hz => absurd hz hno⟩
      rintro ⟨z, hz, -, rfl⟩
      rw [hx] at hz
      cases hz
      exact absurd rfl hj
  · rw [(hy z hz).2]
    exact h.runningOrder x hx
  · rw [hchoice hs] at hz
    cases hz

/-- A loop's outstanding instance ended where it stands, and its status NONE (R10, R111 to R113). -/
theorem endInstance (i : LoopId) : Placed (Function.update st i .noInstance) (u.endInstance i (st i)) := by
  cases hi : st i with
  | noInstance =>
    rw [← hi, Function.update_eq_self]
    simpa [CompUnit.endInstance, hi] using h
  | due => exact h.endDue hi
  | suspended => exact h.endSuspended hi
  | running =>
    obtain ⟨x, hx, ha, rfl⟩ := (h.running i).1 hi
    simp only [CompUnit.endInstance, CompUnit.abandon, hx, if_true]
    cases hs : u.state with
    | idle => rw [(h.idleEmpty hs).2.1] at hx; cases hx
    | stage =>
      have := h.endRunning hx ha (y := some { x with abandoned := true }) (state := .stage)
        (fun z hz => by cases hz; exact ⟨rfl, rfl⟩) nofun (fun _ => rfl) nofun
      simpa [hs] using this
    | choice =>
      have := h.endRunning hx ha (y := none) (state := .choice) nofun nofun nofun (fun _ => rfl)
      simpa [hs] using this

/-- A fresh instance inserted into the due queue of a unit whose loop had none (R89, R99, R102). -/
theorem insert {x : Instance} (hi : st x.loop = .noInstance) (ha : x.abandoned = false) (now : Tick) :
    Placed (Function.update st x.loop .due) (u.insert now x) := by
  have hperm : (insertDue now x u.due).Perm (x :: u.due) := insertDue_perm now x u.due
  refine ⟨fun j => ?_, fun j => ?_, fun j => ?_, ?_, h.stackOnce, h.depth, h.order, h.runningOrder, fun hs => ?_,
    fun hs => ?_, fun hs z hz => ?_, fun z hz => ?_⟩
  · simp only [CompUnit.insert, hperm.mem_iff]
    by_cases hj : j = x.loop
    · subst hj
      simp
    · rw [Function.update_of_ne hj, h.due j, exists_mem_tail hj]
  · by_cases hj : j = x.loop
    · subst hj
      simpa [CompUnit.insert] using h.not_stack (i := x.loop) (by rw [hi]; nofun)
    · rw [Function.update_of_ne hj, h.stack j]
      rfl
  · by_cases hj : j = x.loop
    · subst hj
      simpa [CompUnit.insert] using h.not_running (i := x.loop) (by rw [hi]; nofun)
    · rw [Function.update_of_ne hj, h.running j]
      rfl
  · rw [CompUnit.insert, (hperm.map _).nodup_iff, List.map_cons, List.nodup_cons]
    refine ⟨fun hmem => ?_, h.dueOnce⟩
    obtain ⟨y, hy, hl⟩ := List.mem_map.1 hmem
    exact h.not_due (i := x.loop) (by rw [hi]; nofun) ⟨y, hy, hl⟩
  · simp only [CompUnit.insert] at hs
    split at hs
    · cases hs
    · next hne => exact absurd hs hne
  · simp only [CompUnit.insert] at hs
    split at hs
    · cases hs
    · exact h.stageRunning hs
  · simp only [CompUnit.insert] at hs hz
    split at hs
    · next hidle =>
      rw [(h.idleEmpty hidle).2.1] at hz
      cases hz
    · exact h.choiceLive hs z hz
  · simp only [CompUnit.insert, List.mem_append, hperm.mem_iff, List.mem_cons, or_assoc] at hz
    rcases hz with rfl | hz
    · exact ha
    · exact h.waitingLive z (List.mem_append.2 hz)

/-- The head of the due queue begins its stage in an empty running slot, with priority over the stack
(R103, R106, R107). -/
theorem beginDue {b : Instance} {q : List Instance} (hd : u.due = b :: q) (hr : u.running = none)
    (hprio : ∀ y ∈ u.stack, (b.priority : Nat) < y.priority) :
    Placed (Function.update st b.loop .running) ⟨.stage, q, some b, u.stack⟩ := by
  have hb : st b.loop = .due := (h.due _).2 ⟨b, by simp [hd], rfl⟩
  have hlive : b.abandoned = false := h.waitingLive b (by simp [hd])
  have honce : ((b :: q).map (·.loop)).Nodup := hd ▸ h.dueOnce
  refine ⟨fun j => ?_, fun j => ?_, fun j => ?_, ?_, h.stackOnce, h.depth, h.order, fun x hx => ?_, nofun,
    fun _ => rfl, nofun, fun x hx => h.waitingLive x ?_⟩
  · by_cases hj : j = b.loop
    · subst hj
      simpa using not_mem_tail honce
    · rw [Function.update_of_ne hj, h.due j, hd, exists_mem_tail hj]
  · by_cases hj : j = b.loop
    · subst hj
      simpa using h.not_stack (i := b.loop) (by rw [hb]; nofun)
    · rw [Function.update_of_ne hj, h.stack j]
  · by_cases hj : j = b.loop
    · subst hj
      simp [hlive]
    · rw [Function.update_of_ne hj, h.running j, hr]
      simp [Ne.symm hj]
  · exact (List.nodup_cons.1 honce).2
  · cases hx
    exact hprio
  · rw [hd, List.cons_append]
    exact List.mem_cons_of_mem b hx

/-- The top of the stack is resumed into an empty running slot (R106). -/
theorem resume {a : Instance} {r : List Instance} (hs : u.stack = a :: r) (hr : u.running = none) :
    Placed (Function.update st a.loop .running) ⟨.stage, u.due, some a, r⟩ := by
  have ha : st a.loop = .suspended := (h.stack _).2 ⟨a, by simp [hs], rfl⟩
  have hlive : a.abandoned = false := h.waitingLive a (by simp [hs])
  have honce : ((a :: r).map (·.loop)).Nodup := hs ▸ h.stackOnce
  have horder : (((a :: r).map fun x => (x.priority : Nat))).Pairwise (· < ·) := hs ▸ h.order
  rw [List.map_cons, List.pairwise_cons] at horder
  refine ⟨fun j => ?_, fun j => ?_, fun j => ?_, h.dueOnce, (List.nodup_cons.1 honce).2, ?_, horder.2,
    fun x hx y hy => ?_, nofun, fun _ => rfl, nofun, fun x hx => h.waitingLive x ?_⟩
  · by_cases hj : j = a.loop
    · subst hj
      simpa using h.not_due (i := a.loop) (by rw [ha]; nofun)
    · rw [Function.update_of_ne hj, h.due j]
  · by_cases hj : j = a.loop
    · subst hj
      simpa using not_mem_tail honce
    · rw [Function.update_of_ne hj, h.stack j, hs, exists_mem_tail hj]
  · by_cases hj : j = a.loop
    · subst hj
      simp [hlive]
    · rw [Function.update_of_ne hj, h.running j, hr]
      simp [Ne.symm hj]
  · have := h.depth
    rw [hs, List.length_cons] at this
    exact Nat.le_of_succ_le this
  · cases hx
    exact horder.1 _ (List.mem_map_of_mem hy)
  · rcases List.mem_append.1 hx with hx | hx
    · exact List.mem_append_left _ hx
    · exact List.mem_append_right _ (hs ▸ List.mem_cons_of_mem a hx)

/-- At its stage boundary the running instance is pushed onto a stack that has room (R107, R108). -/
theorem suspend {x : Instance} (hx : u.running = some x) (ha : x.abandoned = false) (hroom : u.stack.length < 3) :
    Placed (Function.update st x.loop .suspended) ⟨.choice, u.due, none, x :: u.stack⟩ := by
  have hst : st x.loop = .running := (h.running _).2 ⟨x, hx, ha, rfl⟩
  have hno : ¬∃ y ∈ u.stack, y.loop = x.loop := h.not_stack (by rw [hst]; nofun)
  refine ⟨fun j => ?_, fun j => ?_, fun j => ?_, h.dueOnce, ?_, hroom, ?_, nofun, nofun, nofun, nofun, fun y hy => ?_⟩
  · by_cases hj : j = x.loop
    · subst hj
      simpa using h.not_due (i := x.loop) (by rw [hst]; nofun)
    · rw [Function.update_of_ne hj, h.due j]
  · by_cases hj : j = x.loop
    · subst hj
      simp
    · rw [Function.update_of_ne hj, h.stack j, exists_mem_tail hj]
  · by_cases hj : j = x.loop
    · subst hj
      simp
    · rw [Function.update_of_ne hj, h.running j, hx]
      simp [Ne.symm hj]
  · rw [List.map_cons, List.nodup_cons]
    refine ⟨fun hmem => ?_, h.stackOnce⟩
    obtain ⟨y, hy, hl⟩ := List.mem_map.1 hmem
    exact hno ⟨y, hy, hl⟩
  · rw [List.map_cons, List.pairwise_cons]
    refine ⟨fun p hp => ?_, h.order⟩
    obtain ⟨y, hy, rfl⟩ := List.mem_map.1 hp
    exact h.runningOrder x hx y hy
  · rcases List.mem_append.1 hy with hy | hy
    · exact h.waitingLive y (List.mem_append_left _ hy)
    · rcases List.mem_cons.1 hy with rfl | hy
      · exact ha
      · exact h.waitingLive y (List.mem_append_right _ hy)

/-- The running slot keeps its instance, further on in its program, in STAGE or CHOICE (R104, R107). -/
theorem keepRunning {x y : Instance} (hx : u.running = some x) (ha : x.abandoned = false) (hl : y.loop = x.loop)
    (hp : y.priority = x.priority) (hy : y.abandoned = false) {state : UnitState} (hidle : state ≠ .idle) :
    Placed st { u with running := some y, state := state } where
  due := h.due
  stack := h.stack
  running j := by
    rw [h.running j, hx]
    simp [ha, hy, hl]
  dueOnce := h.dueOnce
  stackOnce := h.stackOnce
  depth := h.depth
  order := h.order
  runningOrder z hz := by
    cases hz
    rw [hp]
    exact h.runningOrder x hx
  idleEmpty hs := absurd hs hidle
  stageRunning _ := rfl
  choiceLive _ z hz := by
    cases hz
    exact hy
  waitingLive := h.waitingLive

/-- An abandoned instance leaves the running slot at the end of its stage (R104). -/
theorem dropAbandoned {x : Instance} (hx : u.running = some x) (ha : x.abandoned = true) :
    Placed st { u with running := none, state := .choice } where
  due := h.due
  stack := h.stack
  running j := by
    rw [h.running j, hx]
    simp [ha]
  dueOnce := h.dueOnce
  stackOnce := h.stackOnce
  depth := h.depth
  order := h.order
  runningOrder := nofun
  idleEmpty := nofun
  stageRunning := nofun
  choiceLive _ := nofun
  waitingLive := h.waitingLive

/-- A unit with nothing to run becomes idle (R106). -/
theorem becomeIdle (hd : u.due = []) (hs : u.stack = []) (hr : u.running = none) : Placed st { u with state := .idle } where
  due := h.due
  stack := h.stack
  running := h.running
  dueOnce := h.dueOnce
  stackOnce := h.stackOnce
  depth := h.depth
  order := h.order
  runningOrder := h.runningOrder
  idleEmpty _ := ⟨hd, hr, hs⟩
  stageRunning := nofun
  choiceLive := nofun
  waitingLive := h.waitingLive

/-- SAFE entry leaves no live instance (R115). -/
theorem flush : Placed (fun _ => .noInstance) u.flush where
  due i := by simp [CompUnit.flush]
  stack i := by simp [CompUnit.flush]
  running i := by
    simp only [CompUnit.flush, reduceCtorEq, false_iff, not_exists]
    rintro x ⟨hx, ha, -⟩
    split at hx
    · obtain ⟨y, -, rfl⟩ := Option.map_eq_some_iff.1 hx
      cases ha
    · cases hx
  dueOnce := List.nodup_nil
  stackOnce := List.nodup_nil
  depth := Nat.zero_le 3
  order := List.Pairwise.nil
  runningOrder _ _ := nofun
  idleEmpty hs := by
    have hs : u.state = .idle := hs
    simp [CompUnit.flush, hs]
  stageRunning hs := by
    have hs : u.state = .stage := hs
    simpa [CompUnit.flush, hs] using h.stageRunning hs
  choiceLive hs x hx := by
    have hs : u.state = .choice := hs
    simp [CompUnit.flush, hs] at hx
  waitingLive := nofun

end Placed

/-- The empty unit of a full reset (R99, R102, R108). -/
theorem placed_reset : Placed (fun _ => .noInstance) CompUnit.reset := by
  refine ⟨?_, ?_, ?_, ?_, ?_, ?_, ?_, ?_, ?_, ?_, ?_, ?_⟩ <;> simp [CompUnit.reset]

end Sys2Proof.Machine
end

section
/-! SUPPORT. Every move keeps the loops, the mode and the computation unit in agreement. -/

namespace Sys2Proof.Machine

/-- A live instance's loop is ACTIVE, and the instance stands within its loop's program (R9, R97). -/
def State.Runs (s : State) (x : Instance) : Prop :=
  (s.loop x.loop).state = .active ∧ ∃ d, (s.loop x.loop).definition = some d ∧ x.priority = d.priority
    ∧ 1 ≤ x.nextStage ∧ x.nextStage ≤ d.stages.length

/-- Every program has one to four stages (R2). -/
def State.Programs (s : State) : Prop :=
  ∀ i d, (s.loop i).definition = some d → 1 ≤ d.stages.length ∧ d.stages.length ≤ 4

/-- The instance statuses of the sixteen loops. -/
def State.statuses (s : State) : LoopId → InstanceStatus := fun i => (s.loop i).status

theorem UnitInv.placed {s : State} (h : UnitInv s) : Placed s.statuses s.cu :=
  ⟨h.dueStatus, h.stackStatus, h.runningStatus, h.dueOnce, h.stackOnce, h.stackDepth, h.stackOrder, h.runningOrder,
    h.idleEmpty, h.stageRunning, h.choiceLive, h.waitingLive⟩

theorem UnitInv.runs {s : State} (h : UnitInv s) {x : Instance} (hx : x ∈ s.cu.live) : s.Runs x :=
  ⟨h.activeOnly _ ((h.placed.live_iff x.loop).2 ⟨x, hx, rfl⟩), h.stageInProgram x hx⟩

theorem unitInv_of_placed {s : State} (hp : Placed s.statuses s.cu) (hr : ∀ x ∈ s.cu.live, s.Runs x)
    (hd : s.Programs) : UnitInv s where
  activeOnly i hi := by
    obtain ⟨x, hx, rfl⟩ := (hp.live_iff i).1 hi
    exact (hr x hx).1
  dueStatus := hp.due
  stackStatus := hp.stack
  runningStatus := hp.running
  dueOnce := hp.dueOnce
  stackOnce := hp.stackOnce
  stackDepth := hp.depth
  stackOrder := hp.order
  runningOrder := hp.runningOrder
  idleEmpty := hp.idleEmpty
  stageRunning := hp.stageRunning
  choiceLive := hp.choiceLive
  waitingLive := hp.waitingLive
  stageInProgram x hx := (hr x hx).2
  programLength := hd

/-- A loop that is not ACTIVE has no instance (R9). -/
theorem LoopInv.status_none {s : State} (h : LoopInv s) {i : LoopId} (hi : (s.loop i).state ≠ .active) :
    (s.loop i).status = .noInstance := by
  by_contra hne
  exact hi (h.unit.activeOnly i hne)

/-- The loop of a live instance is not one without an instance. -/
theorem LoopInv.live_loop_ne {s : State} (h : LoopInv s) {i : LoopId} (hi : (s.loop i).status = .noInstance)
    {x : Instance} (hx : x ∈ s.cu.live) : x.loop ≠ i := by
  rintro rfl
  exact (h.unit.placed.live_iff x.loop).2 ⟨x, hx, rfl⟩ hi

/-! ## Changes that keep the mode controller and the link -/

/-- What the mode asks of one loop entry (R6, R9, R81, R181, R182). -/
structure EntryInv (mode : Mode) (c : LoopCore) : Prop where
  activeOnlyInRun : c.state = .active → mode = .run
  heldSafeOnlyInSafe : c.state = .held .safe → mode = .safe
  scheduled : c.nextRelease.isSome = true ↔ (c.state = .active ∨ (c.state = .armed ∧ mode = .run))
  emptyIffUndefined : c.state = .empty ↔ c.definition = none

theorem ModeInv.entry {s : State} (h : ModeInv s) (i : LoopId) : EntryInv s.ctl.mode (s.loop i).core :=
  ⟨h.activeOnlyInRun i, h.heldSafeOnlyInSafe i, h.scheduled i, h.emptyIffUndefined i⟩

theorem modeInv_of_entries {s : State} (hpin : s.ctl.safeN = .low ↔ s.ctl.mode = .safe)
    (hlink : s.ctl.mode = .run → s.link.state ≠ .mute) (h : ∀ i, EntryInv s.ctl.mode (s.loop i).core) : ModeInv s :=
  ⟨hpin, hlink, fun i => (h i).activeOnlyInRun, fun i => (h i).heldSafeOnlyInSafe, fun i => (h i).scheduled,
    fun i => (h i).emptyIffUndefined⟩

/-- The modes of two states agree, so what one asks of its loop entries the other does. -/
theorem ModeInv.of_entries {s t : State} (h : ModeInv s) (hm : t.ctl.mode = s.ctl.mode) (hn : t.ctl.safeN = s.ctl.safeN)
    (hl : t.link.state = s.link.state) (he : ∀ i, EntryInv s.ctl.mode (t.loop i).core) : ModeInv t :=
  modeInv_of_entries (by rw [hm, hn]; exact h.safePin) (by rw [hm, hl]; exact h.runNotMute) (by rw [hm]; exact he)

/-- The invariants see the core alone. -/
theorem LoopInv.congr {s t : State} (h : LoopInv s) (e : SameCore s t) : LoopInv t where
  mode := h.mode.of_entries e.mode e.safeN e.link fun i => by rw [e.loop i]; exact h.mode.entry i
  unit := by
    have hst : t.statuses = s.statuses := funext e.status
    refine unitInv_of_placed (by rw [hst, e.cu]; exact h.unit.placed) (fun x hx => ?_) fun i d hd => ?_
    · rw [e.cu] at hx
      have hr := h.unit.runs hx
      unfold State.Runs at hr ⊢
      rwa [e.state, e.definition]
    · exact h.unit.programLength i d ((e.definition i).symm.trans hd)

/-- What the moves of one loop entry keep of the mode's demands (R14, R16 to R20, R84, R85). -/
theorem EntryInv.move {mode : Mode} {c c' : LoopCore} (h : EntryInv mode c) (hm : LoopMove mode c c') :
    EntryInv mode c' := by
  cases hm with
  | define _ _ _ => exact ⟨nofun, nofun, by simp [LoopEntry.core, definedEntry, LoopEntry.reset], by
      simp [LoopEntry.core, definedEntry]⟩
  | clear _ => exact ⟨nofun, nofun, by simp [LoopEntry.core, LoopEntry.reset], by simp [LoopEntry.core, LoopEntry.reset]⟩
  | arm he _ _ =>
    have hd : c.definition ≠ none := fun hn => he (h.emptyIffUndefined.2 hn)
    refine ⟨nofun, nofun, ?_, ⟨nofun, fun hn => absurd hn hd⟩⟩
    cases mode with
    | safe => simp
    | run => simpa [Option.isSome_iff_ne_none] using hd
  | leave _ he hst =>
    have hd : c.definition ≠ none := by
      rcases he with he | he
      · exact fun hn => he (h.emptyIffUndefined.2 hn)
      · exact he
    rcases hst with rfl | rfl
    · exact ⟨nofun, nofun, by simp, ⟨nofun, fun hn => absurd hn hd⟩⟩
    · exact ⟨nofun, nofun, by simp, ⟨nofun, fun hn => absurd hn hd⟩⟩
  | activate hst =>
    have hrun : mode = .run := hst.elim h.activeOnlyInRun (·.2)
    have hd : c.definition ≠ none := fun hn => by
      have he := h.emptyIffUndefined.2 hn
      rw [he] at hst
      rcases hst with hst | ⟨hst, -⟩ <;> cases hst
    exact ⟨fun _ => hrun, nofun, ⟨fun _ => .inl rfl, fun _ => h.scheduled.2 hst⟩, ⟨nofun, fun hn => absurd hn hd⟩⟩
  | advance f => exact ⟨h.activeOnlyInRun, h.heldSafeOnlyInSafe, by simpa using h.scheduled, h.emptyIffUndefined⟩
  | commit => exact ⟨h.activeOnlyInRun, h.heldSafeOnlyInSafe, h.scheduled, h.emptyIffUndefined⟩
  | discard => exact ⟨h.activeOnlyInRun, h.heldSafeOnlyInSafe, h.scheduled, h.emptyIffUndefined⟩
  | load _ _ _ => exact ⟨h.activeOnlyInRun, h.heldSafeOnlyInSafe, h.scheduled, h.emptyIffUndefined⟩
  | preset _ _ => exact ⟨h.activeOnlyInRun, h.heldSafeOnlyInSafe, h.scheduled, h.emptyIffUndefined⟩

/-- A move of one loop entry keeps the instance status, and an entry with an instance keeps its state and its
definition (R9, R10). -/
theorem LoopMove.live {mode : Mode} {c c' : LoopCore} (hm : LoopMove mode c c')
    (hactive : c.status ≠ .noInstance → c.state = .active) :
    c'.status = c.status ∧ (c.status ≠ .noInstance → c'.state = .active ∧ c'.definition = c.definition) := by
  cases hm with
  | define hs _ _ =>
    have hn : c.status = .noInstance := by
      by_contra hne
      rw [hactive hne] at hs
      rcases hs with hs | hs <;> cases hs
    exact ⟨hn.symm, fun hne => absurd hn hne⟩
  | clear hn => exact ⟨hn.symm, fun hne => absurd hn hne⟩
  | arm _ ha _ => exact ⟨rfl, fun hne => absurd (hactive hne) ha⟩
  | leave hn _ _ => exact ⟨rfl, fun hne => absurd hn hne⟩
  | activate _ => exact ⟨rfl, fun _ => ⟨rfl, rfl⟩⟩
  | advance _ => exact ⟨rfl, fun hne => ⟨hactive hne, rfl⟩⟩
  | commit => exact ⟨rfl, fun hne => ⟨hactive hne, rfl⟩⟩
  | discard => exact ⟨rfl, fun hne => ⟨hactive hne, rfl⟩⟩
  | load _ _ _ => exact ⟨rfl, fun hne => ⟨hactive hne, rfl⟩⟩
  | preset _ _ => exact ⟨rfl, fun hne => ⟨hactive hne, rfl⟩⟩

/-- A move of one loop entry leaves its definition, takes it away or brings a legal one (R14, R19). -/
theorem LoopMove.definition {mode : Mode} {c c' : LoopCore} (hm : LoopMove mode c c') :
    c'.definition = c.definition ∨ c'.definition = none ∨ ∃ d, c'.definition = some d ∧ d.Legal := by
  cases hm with
  | define _ hd _ => exact .inr (.inr ⟨_, rfl, hd⟩)
  | clear _ => exact .inr (.inl rfl)
  | arm _ _ _ => exact .inl rfl
  | leave _ _ _ => exact .inl rfl
  | activate _ => exact .inl rfl
  | advance _ => exact .inl rfl
  | commit => exact .inl rfl
  | discard => exact .inl rfl
  | load _ _ _ => exact .inl rfl
  | preset _ _ => exact .inl rfl

theorem core_setLoop (s : State) (i j : LoopId) (l : LoopEntry) :
    ((s.setLoop i l).loop j).core = if j = i then l.core else (s.loop j).core := by
  rw [loop_setLoop]
  split <;> rfl

theorem LoopInv.moveLoop {s : State} (h : LoopInv s) {i : LoopId} {l : LoopEntry}
    (hm : LoopMove s.ctl.mode (s.loop i).core l.core) : LoopInv (s.setLoop i l) where
  mode := h.mode.of_entries rfl rfl rfl fun j => by
    rw [core_setLoop]
    split
    · exact (h.mode.entry i).move hm
    · exact h.mode.entry j
  unit := by
    obtain ⟨hstatus, hlive⟩ := hm.live (h.unit.activeOnly i)
    have hst : (s.setLoop i l).statuses = s.statuses := funext fun j => by
      unfold State.statuses
      rw [loop_setLoop]
      split
      · next e => rw [e]; exact hstatus
      · rfl
    refine unitInv_of_placed (by rw [hst]; exact h.unit.placed) (fun x hx => ?_) fun j d hd => ?_
    · have hr := h.unit.runs hx
      unfold State.Runs at hr ⊢
      by_cases hi : x.loop = i
      · have hne : (s.loop i).status ≠ .noInstance :=
          hi ▸ (h.unit.placed.live_iff x.loop).2 ⟨x, hx, rfl⟩
        obtain ⟨ha, hd⟩ := hlive hne
        rw [hi] at hr ⊢
        rw [loop_setLoop_self]
        exact ⟨ha, by rw [show l.definition = (s.loop i).definition from hd]; exact hr.2⟩
      · rw [loop_setLoop_ne _ _ hi]
        exact hr
    · rw [loop_setLoop] at hd
      split at hd
      · rcases hm.definition with he | he | ⟨d', he, hlegal⟩
        · exact h.unit.programLength i d (he.symm.trans hd)
        · exact nomatch he.symm.trans hd
        · cases he.symm.trans hd
          exact hlegal.stageCount
      · exact h.unit.programLength j d hd

/-! ## Changes of the computation unit -/

/-- Two loop entries that agree but for the instance status, the memory and what no invariant of the loops sees. -/
def SameStanding (l l' : LoopEntry) : Prop :=
  l'.definition = l.definition ∧ l'.state = l.state ∧ l'.nextRelease = l.nextRelease

/-- The loops and the mode stand as they did; the instances stand as the new statuses say, each of them where it may
(R9, R97). -/
theorem LoopInv.moveUnit {s t : State} (h : LoopInv s) (hl : ∀ i, SameStanding (s.loop i) (t.loop i))
    (hc : t.ctl = s.ctl) (hk : t.link = s.link) (hp : Placed t.statuses t.cu)
    (hr : ∀ x ∈ t.cu.live, s.Runs x) : LoopInv t where
  mode := h.mode.of_entries (by rw [hc]) (by rw [hc]) (by rw [hk]) fun i => by
    obtain ⟨hd, hs, hn⟩ := hl i
    have he := h.mode.entry i
    refine ⟨fun ha => he.activeOnlyInRun (hs.symm.trans ha), fun ha => he.heldSafeOnlyInSafe (hs.symm.trans ha), ?_, ?_⟩
    · change (t.loop i).nextRelease.isSome = true ↔ _
      rw [hn]
      change _ ↔ (t.loop i).state = _ ∨ (t.loop i).state = _ ∧ _
      rw [hs]
      exact he.scheduled
    · change (t.loop i).state = _ ↔ (t.loop i).definition = _
      rw [hs, hd]
      exact he.emptyIffUndefined
  unit := unitInv_of_placed hp
    (fun x hx => by
      obtain ⟨hd, hs, -⟩ := hl x.loop
      have hx := hr x hx
      unfold State.Runs at hx ⊢
      rwa [hs, hd])
    fun i d hd => h.unit.programLength i d ((hl i).1.symm.trans hd)

theorem statuses_modLoop (s : State) (i : LoopId) {f : LoopEntry → LoopEntry} {st : InstanceStatus}
    (hf : (f (s.loop i)).status = st) : (s.modLoop i f).statuses = Function.update s.statuses i st := by
  funext j
  unfold State.statuses
  rw [loop_modLoop]
  split
  · next e => rw [e, Function.update_self, hf]
  · next e => rw [Function.update_of_ne e]

theorem sameStanding_modLoop (s : State) (i : LoopId) {f : LoopEntry → LoopEntry}
    (hf : SameStanding (s.loop i) (f (s.loop i))) (j : LoopId) : SameStanding (s.loop j) ((s.modLoop i f).loop j) := by
  rw [loop_modLoop]
  split
  · next e => rw [e]; exact hf
  · exact ⟨rfl, rfl, rfl⟩

/-- Ending an instance makes none live (R111 to R113). -/
theorem live_endInstance {u : CompUnit} {i : LoopId} {st : InstanceStatus} {x : Instance}
    (hx : x ∈ (u.endInstance i st).live) : x ∈ u.live := by
  rw [mem_live] at hx ⊢
  cases st with
  | noInstance => exact hx
  | due => exact hx.imp_left fun h => (mem_without.1 h).1
  | suspended => exact hx.imp_right (.imp_right fun h => (mem_without.1 h).1)
  | running =>
    simp only [CompUnit.endInstance, CompUnit.abandon] at hx
    split at hx
    · exact hx
    · next y hy =>
      split at hx
      · rcases hx with hx | ⟨hx, ha⟩ | hx
        · exact .inl hx
        · dsimp only at hx
          split at hx
          · cases hx
            cases ha
          · cases hx
        · exact .inr (.inr hx)
      · exact hx

theorem LoopInv.endInstance {s : State} (h : LoopInv s) (i : LoopId) : LoopInv (s.endInstance i) := by
  refine h.moveUnit (sameStanding_modLoop _ i ⟨rfl, rfl, rfl⟩) rfl rfl ?_ fun x hx => h.unit.runs (live_endInstance hx)
  have hst : (s.endInstance i).statuses = Function.update s.statuses i .noInstance := statuses_modLoop _ i rfl
  rw [hst]
  exact h.unit.placed.endInstance i

theorem LoopInv.insert {s : State} (h : LoopInv s) {i : LoopId} {d : Definition} {x : Instance} (now : Tick)
    (hd : (s.loop i).definition = some d) (ha : (s.loop i).state = .active) (hs : (s.loop i).status = .noInstance)
    (hx : x.Fresh i d) :
    LoopInv ({ s with cu := s.cu.insert now x }.modLoop i fun l => { l with status := .due }) := by
  obtain ⟨rfl, hprio, hnext, -, hlive⟩ := hx
  refine h.moveUnit (sameStanding_modLoop _ _ ⟨rfl, rfl, rfl⟩) rfl rfl ?_ fun y hy => ?_
  · have hst := statuses_modLoop { s with cu := s.cu.insert now x } x.loop (f := fun l => { l with status := .due }) rfl
    rw [hst]
    exact h.unit.placed.insert hs hlive now
  · have hy : y ∈ (s.cu.insert now x).live := hy
    simp only [mem_live, CompUnit.insert, (insertDue_perm now x s.cu.due).mem_iff, List.mem_cons, or_assoc] at hy
    rcases hy with rfl | hy
    · exact ⟨ha, d, hd, hprio, hnext.ge, hnext ▸ (h.unit.programLength _ d hd).1⟩
    · exact h.unit.runs (mem_live.2 hy)

/-! ## The choice -/

theorem statuses_beginStage (s : State) (x : Instance) (q r : List Instance) :
    (s.beginStage x q r).statuses = Function.update s.statuses x.loop .running := statuses_modLoop _ x.loop rfl

theorem cu_beginStage (s : State) (x : Instance) (q r : List Instance) :
    (s.beginStage x q r).cu = ⟨.stage, q, some x, r⟩ := rfl

/-- A choice keeps the unit in order, and makes no instance live (R105 to R107). -/
theorem placed_settleChoice {s : State} (h : Placed s.statuses s.cu) :
    Placed s.settleChoice.statuses s.settleChoice.cu ∧ ∀ x ∈ s.settleChoice.cu.live, x ∈ s.cu.live := by
  unfold State.settleChoice
  split
  · next hc =>
    split
    · next hr =>
      unfold State.chooseEmpty
      split
      · next hd hs =>
        exact ⟨h.becomeIdle hd hs hr, fun x hx => mem_live.2 (mem_live.1 hx)⟩
      · next b q hd hs =>
        rw [statuses_beginStage, cu_beginStage]
        refine ⟨hs ▸ h.beginDue hd hr (by simp [hs]), fun x hx => ?_⟩
        simp only [mem_live, hd, hs] at hx ⊢
        aesop
      · next a r hd hs =>
        rw [statuses_beginStage, cu_beginStage]
        refine ⟨hd ▸ h.resume hs hr, fun x hx => ?_⟩
        simp only [mem_live, hd, hs] at hx ⊢
        aesop
      · next b q a r hd hs =>
        have horder : ∀ y ∈ r, (a.priority : Nat) < y.priority := fun y hy => by
          have := h.order
          rw [hs, List.map_cons, List.pairwise_cons] at this
          exact this.1 _ (List.mem_map_of_mem hy)
        split
        · next hlt =>
          rw [statuses_beginStage, cu_beginStage]
          refine ⟨hs ▸ h.beginDue hd hr fun y hy => ?_, fun x hx => ?_⟩
          · rcases List.mem_cons.1 (hs ▸ hy) with rfl | hy
            · exact hlt
            · exact Nat.lt_trans hlt (horder y hy)
          · simp only [mem_live, hd, hs] at hx ⊢
            aesop
        · rw [statuses_beginStage, cu_beginStage]
          refine ⟨hd ▸ h.resume hs hr, fun x hx => ?_⟩
          simp only [mem_live, hd, hs] at hx ⊢
          aesop
    · next x hr =>
      have hlive := h.choiceLive hc.1 x hr
      have hkeep : ∀ due, s.cu.due = due → Placed (s.beginStage x due s.cu.stack).statuses ⟨.stage, due, some x, s.cu.stack⟩ := by
        rintro due rfl
        have hx : s.statuses x.loop = .running := (h.running _).2 ⟨x, hr, hlive, rfl⟩
        rw [statuses_beginStage, ← hx, Function.update_eq_self]
        exact h.keepRunning hr hlive rfl rfl hlive nofun
      unfold State.chooseAtBoundary
      split
      · next b q hd =>
        split
        · next hlt =>
          rw [statuses_beginStage, cu_beginStage, statuses_modLoop s x.loop (st := .suspended) rfl]
          refine ⟨(h.suspend hr hlive hlt.2).beginDue hd rfl fun y hy => ?_, fun y hy => ?_⟩
          · rcases List.mem_cons.1 hy with rfl | hy
            · exact hlt.1
            · exact Nat.lt_trans hlt.1 (h.runningOrder x hr y hy)
          · simp only [mem_live, hd, hr] at hy ⊢
            aesop
        · refine ⟨hkeep _ hd, fun y hy => ?_⟩
          rw [cu_beginStage] at hy
          simpa only [mem_live, hd, hr] using hy
      · next hd =>
        refine ⟨hkeep _ hd, fun y hy => ?_⟩
        rw [cu_beginStage] at hy
        simpa only [mem_live, hd, hr] using hy
  · exact ⟨h, fun _ hx => hx⟩

theorem sameStanding_settleChoice (s : State) (i : LoopId) : SameStanding (s.loop i) (s.settleChoice.loop i) := by
  obtain ⟨a, b, h⟩ := settleChoice_loop s i
  rw [h]
  exact ⟨rfl, rfl, rfl⟩

theorem LoopInv.settle {s : State} (h : LoopInv s) : LoopInv s.settleChoice := by
  obtain ⟨hp, hlive⟩ := placed_settleChoice h.unit.placed
  obtain ⟨u, ls, he⟩ := settleChoice_only s
  exact h.moveUnit (sameStanding_settleChoice s) (by rw [he]) (by rw [he]) hp fun x hx => h.unit.runs (hlive x hx)

/-! ## The end of a stage -/

/-- The running slot given up at the end of a stage, and the loop's status NONE (R104). -/
theorem LoopInv.finish {s : State} (h : LoopInv s) {x : Instance} (hx : s.cu.running = some x)
    (ha : x.abandoned = false) {f : LoopEntry → LoopEntry} (hf : SameStanding (s.loop x.loop) (f (s.loop x.loop)))
    (hst : (f (s.loop x.loop)).status = .noInstance) : LoopInv (s.dropRunning.modLoop x.loop f) := by
  refine h.moveUnit (sameStanding_modLoop s.dropRunning x.loop hf) rfl rfl ?_ fun y hy => h.unit.runs ?_
  · rw [statuses_modLoop _ _ (show (f (s.dropRunning.loop x.loop)).status = _ from hst)]
    exact h.unit.placed.endRunning hx ha nofun nofun nofun (fun _ => rfl)
  · have hy : y ∈ s.dropRunning.cu.live := hy
    simp only [mem_live, State.dropRunning] at hy ⊢
    aesop

/-- An abandoned instance dropped at the end of its stage (R104). -/
theorem LoopInv.drop {s : State} (h : LoopInv s) {x : Instance} (hx : s.cu.running = some x)
    (ha : x.abandoned = true) : LoopInv s.dropRunning := by
  refine h.moveUnit (fun _ => ⟨rfl, rfl, rfl⟩) rfl rfl (h.unit.placed.dropAbandoned hx ha) fun y hy => h.unit.runs ?_
  simp only [mem_live, State.dropRunning] at hy ⊢
  aesop

/-- A running instance that is not abandoned has its stage (R9, R97). -/
theorem LoopInv.runningStage_ne_none {s : State} (h : LoopInv s) {x : Instance} (hx : s.cu.running = some x)
    (ha : x.abandoned = false) : s.runningStage x ≠ none := by
  obtain ⟨-, d, hd, -, hlo, hhi⟩ := h.unit.runs (mem_live.2 (.inr (.inl ⟨hx, ha⟩)))
  have hst : d.stages[x.nextStage - 1]? = some (d.stages[x.nextStage - 1]'(by omega)) := List.getElem?_eq_getElem _
  rw [runningStage_eq_some.2 ⟨hd, hst⟩]
  nofun

theorem LoopInv.advance {s : State} (h : LoopInv s) {x : Instance} {d : Definition} {st : StageDesc}
    (he : EndsStage s x d st) (hlt : x.nextStage < d.stages.length) (r : StageResult) :
    LoopInv { s with cu := { s.cu with running := some (x.enter r), state := .choice } } := by
  refine h.moveUnit (fun _ => ⟨rfl, rfl, rfl⟩) rfl rfl
    (h.unit.placed.keepRunning (y := x.enter r) (state := .choice) he.running he.live rfl rfl he.live nofun)
    fun y hy => ?_
  rcases mem_live.1 hy with hy | ⟨hy, -⟩ | hy
  · exact h.unit.runs (mem_live.2 (.inl hy))
  · cases hy
    obtain ⟨hact, d', hd, hp, hlo, -⟩ := h.unit.runs (mem_live.2 (.inr (.inl ⟨he.running, he.live⟩)))
    cases he.definition.symm.trans hd
    exact ⟨hact, d, hd, hp, Nat.le_add_left 1 _, hlt⟩
  · exact h.unit.runs (mem_live.2 (.inr (.inr hy)))

/-! ## Resets, SAFE entry and RUN entry -/

/-- The invariants hold where no loop has a definition and the unit is empty, in SAFE (R193). -/
theorem loopInv_of_reset {t : State} (hl : ∀ i, t.loop i = LoopEntry.reset) (hc : t.cu = .reset)
    (hm : t.ctl.mode = .safe) (hn : t.ctl.safeN = .low) : LoopInv t where
  mode := modeInv_of_entries (by simp [hm, hn]) (by simp [hm]) fun i => by
    rw [hl i]
    exact ⟨nofun, nofun, by simp [LoopEntry.core, LoopEntry.reset], by simp [LoopEntry.core, LoopEntry.reset]⟩
  unit := by
    have hst : t.statuses = fun _ => .noInstance := funext fun i => by rw [State.statuses, hl i]; rfl
    refine unitInv_of_placed (by rw [hst, hc]; exact placed_reset) (fun x hx => ?_) fun i d hd => ?_
    · rw [hc] at hx
      simp [mem_live, CompUnit.reset] at hx
    · rw [hl i] at hd
      cases hd

theorem LoopInv.safeEntry {s t : State} (h : LoopInv s) (hl : ∀ i, (t.loop i).core = (s.loop i).core.heldForSafe)
    (hc : t.cu = s.cu.flush) (hm : t.ctl.mode = .safe) (hn : t.ctl.safeN = .low) : LoopInv t := by
  have hcore : ∀ c : LoopCore, EntryInv s.ctl.mode c → (c.status ≠ .noInstance → c.state = .active) →
      EntryInv .safe c.heldForSafe ∧ c.heldForSafe.status = .noInstance ∧ c.heldForSafe.definition = c.definition := by
    intro c hc hact
    have hnone : c.state ≠ .active → c.status = .noInstance := fun hne => by
      by_contra hs
      exact hne (hact hs)
    have hempty := hc.emptyIffUndefined
    have hsched := hc.scheduled
    unfold LoopCore.heldForSafe
    cases hs : c.state with
    | active => exact ⟨⟨nofun, fun _ => rfl, by simp, by simpa [hs] using hempty⟩, rfl, rfl⟩
    | armed =>
      exact ⟨⟨by simp, by simp, by simp, by simpa [hs] using hempty⟩, hnone (by rw [hs]; nofun), rfl⟩
    | empty | idle | held _ | faulted =>
      exact ⟨⟨by simp [hs], fun _ => rfl, by simpa [hs] using hsched, by simpa [hs] using hempty⟩,
        hnone (by rw [hs]; nofun), rfl⟩
  have hentry := fun i => hcore _ (h.mode.entry i) (h.unit.activeOnly i)
  refine ⟨modeInv_of_entries (by simp [hm, hn]) (by simp [hm]) fun i => by rw [hm, hl i]; exact (hentry i).1, ?_⟩
  have hst : t.statuses = fun _ => .noInstance :=
    funext fun i => (congrArg LoopCore.status (hl i)).trans (hentry i).2.1
  refine unitInv_of_placed (by rw [hst, hc]; exact h.unit.placed.flush) (fun x hx => ?_) fun i d hd => ?_
  · rw [hc] at hx
    exact absurd ⟨x, hx, rfl⟩ (mt (h.unit.placed.flush.live_iff x.loop).2 (by simp))
  · exact h.unit.programLength i d (((congrArg LoopCore.definition (hl i)).trans (hentry i).2.2).symm.trans hd)

theorem LoopInv.runEntry {s t : State} (h : LoopInv s) (hs : s.ctl.mode = .safe)
    (hl : ∀ i, t.loop i = (s.loop i).enterRun s.time.tick) (hc : t.cu = s.cu) (hm : t.ctl.mode = .run)
    (hn : t.ctl.safeN = .high) (hk : t.link.state ≠ .mute) : LoopInv t := by
  have hactive : ∀ i, (s.loop i).state ≠ .active := fun i ha => by
    have := h.mode.activeOnlyInRun i ha
    rw [hs] at this
    cases this
  have hentry : ∀ l : LoopEntry, EntryInv .safe l.core → l.state ≠ .active →
      EntryInv .run (l.enterRun s.time.tick).core ∧ (l.enterRun s.time.tick).status = l.status
        ∧ (l.enterRun s.time.tick).definition = l.definition := by
    intro l he hne
    have hempty : l.state = .empty ↔ l.definition = none := he.emptyIffUndefined
    have hsched : l.nextRelease.isSome = true ↔ (l.state = .active ∨ (l.state = .armed ∧ Mode.safe = .run)) := he.scheduled
    have hpoint : l.state ≠ .empty → (l.armingPoint s.time.tick).isSome = true := fun hd => by
      simpa [LoopEntry.armingPoint, Option.isSome_iff_ne_none] using mt hempty.2 hd
    have harmed : ∀ l' : LoopEntry, l'.state = .armed → l'.definition = l.definition → l.state ≠ .empty →
        l'.nextRelease = l.armingPoint s.time.tick → EntryInv .run l'.core := by
      intro l' hst hd hne hr
      have hdef : l'.definition ≠ none := fun hn => hne (hempty.2 (hd ▸ hn))
      exact ⟨fun _ => rfl, fun he => (nomatch hst.symm.trans he),
        ⟨fun _ => .inr ⟨hst, rfl⟩, fun _ => by
          rw [show l'.core.nextRelease = l.armingPoint s.time.tick from hr]
          exact hpoint hne⟩,
        ⟨fun he => (nomatch hst.symm.trans he), fun hn => absurd hn hdef⟩⟩
    unfold LoopEntry.enterRun
    cases hst : l.state with
    | active => exact absurd hst hne
    | armed => exact ⟨harmed _ rfl rfl (by rw [hst]; nofun) rfl, rfl, rfl⟩
    | held r =>
      cases r with
      | safe => exact ⟨harmed _ rfl rfl (by rw [hst]; nofun) rfl, rfl, rfl⟩
      | host => exact ⟨⟨by simp [LoopEntry.core, hst], by simp [LoopEntry.core, hst],
          by simpa [LoopEntry.core, hst] using hsched, by simpa [LoopEntry.core, hst] using hempty⟩, rfl, rfl⟩
    | empty | idle | faulted =>
      exact ⟨⟨by simp [LoopEntry.core, hst], by simp [LoopEntry.core, hst],
          by simpa [LoopEntry.core, hst] using hsched, by simpa [LoopEntry.core, hst] using hempty⟩, rfl, rfl⟩
  have hall := fun i => hentry _ (hs ▸ h.mode.entry i) (hactive i)
  refine ⟨modeInv_of_entries (by simp [hm, hn]) (fun _ => hk) fun i => by rw [hm, hl i]; exact (hall i).1, ?_⟩
  have hst : t.statuses = s.statuses := funext fun i => by
    unfold State.statuses
    rw [hl i]
    exact (hall i).2.1
  refine unitInv_of_placed (by rw [hst, hc]; exact h.unit.placed) (fun x hx => ?_) fun i d hd => ?_
  · rw [hc] at hx
    exact absurd (h.unit.runs hx).1 (hactive x.loop)
  · rw [hl i, (hall i).2.2] at hd
    exact h.unit.programLength i d hd

/-- Every move keeps the loops, the mode and the computation unit in agreement. -/
theorem LoopInv.move {s t : State} (h : LoopInv s) (hm : Move s t) : LoopInv t := by
  cases hm with
  | same e => exact h.congr e
  | link l hl ht e =>
    have hs : LoopInv { s with link := { s.link with state := l } } :=
      ⟨⟨h.mode.safePin, hl, h.mode.activeOnlyInRun, h.mode.heldSafeOnlyInSafe, h.mode.scheduled,
        h.mode.emptyIffUndefined⟩, unitInv_of_placed h.unit.placed (fun x hx => h.unit.runs hx) h.unit.programLength⟩
    exact hs.congr e
  | reset hl hc hm hn => exact loopInv_of_reset hl hc hm hn
  | safeEntry hl hc hm hn => exact h.safeEntry hl hc hm hn
  | runEntry hs hl hc hm hn hk => exact h.runEntry hs hl hc hm hn hk
  | loop i hm => exact h.moveLoop hm
  | endInstance i => exact h.endInstance i
  | insert now hd ha hs hx => exact h.insert now hd ha hs hx
  | settle => exact h.settle
  | drop _ hx ha =>
    rename_i x _
    by_cases hab : x.abandoned = true
    · exact h.drop hx hab
    · exact absurd (ha.resolve_left hab) (h.runningStage_ne_none hx (by simpa using hab))
  | abort _ hx ha =>
    rename_i x _
    have hst : (s.dropRunning.loop x.loop).status = .running :=
      (h.unit.runningStatus _).2 ⟨x, hx, ha, rfl⟩
    have he : s.dropRunning.endInstance x.loop
        = s.dropRunning.modLoop x.loop fun l => { l with status := .noInstance } := by
      rw [State.endInstance, hst]
      rfl
    rw [he]
    exact h.finish hx ha ⟨rfl, rfl, rfl⟩ rfl
  | advance he hlt => exact h.advance he hlt _
  | complete he => exact h.finish he.running he.live ⟨rfl, rfl, rfl⟩ rfl

end Sys2Proof.Machine

open Sys2Proof.Machine

/-- Settles O55, move by move: a step is a chain of moves, and every move keeps the loops, the mode and the
computation unit in agreement. -/
theorem loopsAndUnitStayConsistent : Obligations.LoopsAndUnitStayConsistent :=
  fun _ _ hs h => step_keeps (fun _ _ => LoopInv.move) hs h
end

section
/-! SUPPORT. Every move keeps the definitions and the banks legal, and the memory words and proposals within R5. -/

namespace Sys2Proof.Machine

/-! ## What a move does to one loop entry -/

/-- Two loop entries with the same definition and banks. -/
structure SameBanks (l l' : LoopEntry) : Prop where
  definition : l'.definition = l.definition
  activeBank : l'.activeBank = l.activeBank
  pendingBank : l'.pendingBank = l.pendingBank

theorem SameBanks.refl (l : LoopEntry) : SameBanks l l := ⟨rfl, rfl, rfl⟩

theorem SameBanks.of_core {l l' : LoopEntry} (h : l'.core = l.core) : SameBanks l l' :=
  ⟨congrArg LoopCore.definition h, congrArg LoopCore.activeBank h, congrArg LoopCore.pendingBank h⟩

theorem heldForSafe_keeps (c : LoopCore) : c.heldForSafe.definition = c.definition
    ∧ c.heldForSafe.activeBank = c.activeBank ∧ c.heldForSafe.pendingBank = c.pendingBank
    ∧ c.heldForSafe.mem = c.mem := by
  unfold LoopCore.heldForSafe
  split <;> exact ⟨rfl, rfl, rfl, rfl⟩

theorem enterRun_keeps (now : Tick) (l : LoopEntry) : SameBanks l (l.enterRun now) ∧ (l.enterRun now).mem = l.mem := by
  unfold LoopEntry.enterRun
  split <;> exact ⟨⟨rfl, rfl, rfl⟩, rfl⟩

/-- A move keeps a loop's definition, banks and memory, or is a move of that loop entry, or resets it, or completes the
loop's instance. -/
theorem Move.loop_cases {s t : State} (hm : Move s t) (i : LoopId) :
    (SameBanks (s.loop i) (t.loop i) ∧ (t.loop i).mem = (s.loop i).mem)
      ∨ LoopMove s.ctl.mode (s.loop i).core (t.loop i).core
      ∨ t.loop i = LoopEntry.reset
      ∨ ∃ x d st, EndsStage s x d st ∧ i = x.loop
        ∧ t.loop i = (s.loop i).complete d (x.enter (s.stageResult x st)) := by
  have hmod : ∀ (s' : State) (j : LoopId) (f : LoopEntry → LoopEntry), s'.loops = s.loops →
      SameBanks (s.loop j) (f (s.loop j)) ∧ (f (s.loop j)).mem = (s.loop j).mem →
      SameBanks (s.loop i) ((s'.modLoop j f).loop i) ∧ ((s'.modLoop j f).loop i).mem = (s.loop i).mem := by
    intro s' j f hl hf
    rw [loop_modLoop]
    split
    · next e => rw [loop_congr hl j, e]; exact hf
    · rw [loop_congr hl i]
      exact ⟨.refl _, rfl⟩
  cases hm with
  | same e => exact .inl ⟨.of_core (e.loop i), e.mem i⟩
  | link l _ _ e => exact .inl ⟨.of_core (e.loop i), e.mem i⟩
  | reset hl => exact .inr (.inr (.inl (hl i)))
  | safeEntry hl =>
    obtain ⟨hd, ha, hp, hm⟩ := heldForSafe_keeps (s.loop i).core
    rw [← hl i] at hd ha hp hm
    exact .inl ⟨⟨hd, ha, hp⟩, hm⟩
  | runEntry _ hl => exact .inl (hl i ▸ enterRun_keeps _ _)
  | loop j hm =>
    rw [loop_setLoop]
    split
    · next e => exact .inr (.inl (e ▸ hm))
    · exact .inl ⟨.refl _, rfl⟩
  | endInstance j => exact .inl (hmod _ j _ rfl ⟨⟨rfl, rfl, rfl⟩, rfl⟩)
  | insert => exact .inl (hmod _ _ _ rfl ⟨⟨rfl, rfl, rfl⟩, rfl⟩)
  | settle =>
    obtain ⟨a, b, h⟩ := settleChoice_loop s i
    exact .inl (h ▸ ⟨⟨rfl, rfl, rfl⟩, rfl⟩)
  | drop => exact .inl ⟨.refl _, rfl⟩
  | abort => exact .inl (hmod _ _ _ rfl ⟨⟨rfl, rfl, rfl⟩, rfl⟩)
  | advance => exact .inl ⟨.refl _, rfl⟩
  | complete he =>
    rename_i x d st
    rw [loop_modLoop]
    split
    · next e => exact .inr (.inr (.inr ⟨x, d, st, he, e, by rw [e]; rfl⟩))
    · exact .inl ⟨.refl _, rfl⟩

/-- A live instance behind a move was live ahead of it, or is fresh, or has just ended a stage short of its last
(R97, R104). -/
theorem Move.live_cases {s t : State} (h : LoopInv s) (hm : Move s t) {x : Instance} (hx : x ∈ t.cu.live) :
    x ∈ s.cu.live ∨ x.proposals = Vector.replicate 4 none
      ∨ ∃ y d st, EndsStage s y d st ∧ x = y.enter (s.stageResult y st) := by
  have hdrop : x ∈ s.dropRunning.cu.live → x ∈ s.cu.live := fun hx => by
    simp only [mem_live, State.dropRunning] at hx ⊢
    aesop
  cases hm with
  | same e => exact .inl (e.cu ▸ hx)
  | link l _ _ e => exact .inl (e.cu ▸ hx)
  | reset _ hc =>
    rw [hc] at hx
    simp [mem_live, CompUnit.reset] at hx
  | safeEntry _ hc =>
    rw [hc] at hx
    exact absurd ⟨x, hx, rfl⟩ (mt (h.unit.placed.flush.live_iff x.loop).2 (by simp))
  | runEntry _ _ hc => exact .inl (hc ▸ hx)
  | loop j hm => exact .inl hx
  | endInstance j => exact .inl (live_endInstance hx)
  | insert now hd ha hs hy =>
    rename_i j d y
    have hx : x ∈ (s.cu.insert now y).live := hx
    simp only [mem_live, CompUnit.insert, (insertDue_perm now y s.cu.due).mem_iff, List.mem_cons, or_assoc] at hx
    rcases hx with rfl | hx
    · exact .inr (.inl hy.proposals)
    · exact .inl (mem_live.2 hx)
  | settle => exact .inl ((placed_settleChoice h.unit.placed).2 x hx)
  | drop => exact .inl (hdrop hx)
  | abort => exact .inl (hdrop (live_endInstance hx))
  | advance he =>
    rename_i y d st _
    rcases mem_live.1 hx with hx | ⟨hx, -⟩ | hx
    · exact .inl (mem_live.2 (.inl hx))
    · exact .inr (.inr ⟨y, d, st, he, (Option.some.inj hx).symm⟩)
    · exact .inl (mem_live.2 (.inr (.inr hx)))
  | complete => exact .inl (hdrop hx)

/-! ## Definitions and banks -/

/-- The definition of a loop entry is legal, and its banks fit it or are 0 (R13, R46, R52). -/
structure BanksInv (c : LoopCore) : Prop where
  legal : ∀ d, c.definition = some d → d.Legal
  active : ∀ d, c.definition = some d → BankFits d c.activeBank
  pending : ∀ d, c.definition = some d → BankFits d c.pendingBank
  absent : c.definition = none → c.activeBank = bankZero ∧ c.pendingBank = bankZero

theorem CoefInv.entry {s : State} (h : CoefInv s) (i : LoopId) : BanksInv (s.loop i).core :=
  ⟨h.legal i, h.active i, h.pending i, h.absent i⟩

theorem coefInv_of_entries {s : State} (h : ∀ i, BanksInv (s.loop i).core) : CoefInv s :=
  ⟨fun i => (h i).legal, fun i => (h i).active, fun i => (h i).pending, fun i => (h i).absent⟩

theorem BanksInv.congr {l l' : LoopEntry} (h : BanksInv l.core) (e : SameBanks l l') : BanksInv l'.core :=
  ⟨fun d hd => h.legal d (e.definition.symm.trans hd),
    fun d hd => (show BankFits d l'.activeBank from e.activeBank ▸ h.active d (e.definition.symm.trans hd)),
    fun d hd => (show BankFits d l'.pendingBank from e.pendingBank ▸ h.pending d (e.definition.symm.trans hd)),
    fun hd => by
      obtain ⟨ha, hp⟩ := h.absent (e.definition.symm.trans hd)
      exact ⟨e.activeBank.trans ha, e.pendingBank.trans hp⟩⟩

theorem banksInv_reset : BanksInv LoopEntry.reset.core := by
  have hd : ∀ d, LoopEntry.reset.core.definition ≠ some d := fun d hd => by cases hd
  exact ⟨fun d h => absurd h (hd d), fun d h => absurd h (hd d), fun d h => absurd h (hd d), fun _ => ⟨rfl, rfl⟩⟩

/-- A bank that fits stays fitting with legal words loaded for one stage of the program (R54, R55). -/
theorem BankFits.load {d : Definition} {b : Bank} (h : BankFits d b) {k : Nat} {st : StageDesc} {w : Coefs}
    (hst : d.stages[k]? = some st) (hw : LegalCoefs st.op w) : BankFits d (b.setIfInBounds k w) := by
  intro j
  by_cases hj : (j : Nat) = k
  · have hget : (b.setIfInBounds k w)[j] = w := by simp [← hj]
    rw [hget, hj, hst]
    exact hw
  · have hget : (b.setIfInBounds k w)[j] = b[j] := by simp [Vector.getElem_setIfInBounds_ne, Ne.symm hj]
    rw [hget]
    exact h j

theorem BanksInv.move {mode : Mode} {c c' : LoopCore} (h : BanksInv c) (hm : LoopMove mode c c') : BanksInv c' := by
  cases hm with
  | define _ hd hb =>
    refine ⟨fun d' hd' => ?_, fun d' hd' => ?_, fun d' hd' => ?_, nofun⟩ <;> cases hd'
    · exact hd
    · exact hb
    · exact hb
  | clear _ => exact banksInv_reset
  | arm _ _ _ => exact ⟨h.legal, h.active, h.pending, h.absent⟩
  | leave _ _ _ => exact ⟨h.legal, h.active, h.pending, h.absent⟩
  | activate _ => exact ⟨h.legal, h.active, h.pending, h.absent⟩
  | advance _ => exact ⟨h.legal, h.active, h.pending, h.absent⟩
  | commit => exact ⟨h.legal, h.pending, h.pending, fun hd => ⟨(h.absent hd).2, (h.absent hd).2⟩⟩
  | discard => exact ⟨h.legal, h.active, h.active, fun hd => ⟨(h.absent hd).1, (h.absent hd).1⟩⟩
  | load hd hst hw =>
    refine ⟨h.legal, h.active, fun d' hd' => ?_, fun hn => nomatch hd.symm.trans hn⟩
    cases hd.symm.trans hd'
    exact (h.pending _ hd).load hst hw
  | preset _ _ => exact ⟨h.legal, h.active, h.pending, h.absent⟩

theorem CoefInv.move {s t : State} (h : CoefInv s) (hm : Move s t) : CoefInv t := by
  refine coefInv_of_entries fun i => ?_
  rcases hm.loop_cases i with ⟨e, -⟩ | hl | hr | ⟨x, d, st, -, -, hc⟩
  · exact (h.entry i).congr e
  · exact (h.entry i).move hl
  · exact hr ▸ banksInv_reset
  · exact hc ▸ (h.entry i).congr ⟨rfl, rfl, rfl⟩

/-! ## Memory words and proposals -/

/-- The op of the stage at index `k` from 0 of a loop's program. -/
def opAt (d : Option Definition) (k : Nat) : Option StageOp := (d.bind fun d => d.stages[k]?).map (·.op)

theorem opAt_of_stage {d : Definition} {k : Nat} {st : StageDesc} (h : d.stages[k]? = some st) :
    opAt (some d) k = some st.op := by
  simp [opAt, h]

theorem opAt_ne_none {d : Definition} {k : Nat} (h : k < d.stages.length) : opAt (some d) k ≠ none := by
  simp [opAt, h]

theorem memFits_fresh (op : Option StageOp) : MemFits op StageMem.fresh := by
  match op with
  | none | some .gain | some .sum | some .lpf | some .pid | some .div | some .rotate | some .atan | some .limit =>
    simp [MemFits, StageMem.fresh]

/-- Words that fit, accepted into a memory that fits, fit (R5, R20, R47). -/
theorem MemFits.accept {op : Option StageOp} {m : StageMem} (h : MemFits op m) {q : Proposal}
    (hq : ProposalFits op q) : MemFits op (m.accept (some q)) := by
  obtain ⟨h3, -, hop⟩ := h
  refine ⟨h3, nofun, ?_⟩
  match op, hq, hop with
  | some .lpf, hq, hop =>
    have hq : q.word2 = none := hq
    simpa [StageMem.accept, hq] using hop
  | some .pid, hq, hop =>
    obtain ⟨h1, h2, w, hw, h3, h4⟩ := hq
    simpa [StageMem.accept, hw] using ⟨h1, h2, h3, h4⟩
  | some .limit, hq, hop =>
    obtain ⟨h1, h2, hw⟩ := hq
    simpa [StageMem.accept, hw] using ⟨h1, h2, hop.2.2⟩

/-- A memory that fits, seeded by a completion that proposes no words for it, fits (R47). -/
theorem MemFits.seed {op : StageOp} {m : StageMem} (h : MemFits (some op) m) : MemFits (some op) (m.accept none) := by
  obtain ⟨h3, -, hop⟩ := h
  refine ⟨h3, nofun, ?_⟩
  cases op <;> exact hop

/-- The memories of a loop entry fit its program (R5, R50). -/
def MemsFit (d : Option Definition) (mem : Vector StageMem 4) : Prop := ∀ k : Fin 4, MemFits (opAt d k) mem[k]

theorem memsFit_fresh (d : Option Definition) : MemsFit d memFresh := fun k => by
  rw [show memFresh[k] = StageMem.fresh by simp [memFresh]]
  exact memFits_fresh _

theorem memAt_eq (m : Vector StageMem 4) (k : Fin 4) : memAt m k = m[k] := by
  simp [memAt]

/-- Presets that fit leave memories that fit (R20). -/
theorem MemsFit.preset {d : Definition} {mem : Vector StageMem 4} (h : MemsFit (some d) mem)
    {ws : List (Nat × Proposal)}
    (hw : ∀ w ∈ ws, ∃ st, d.stages[w.1]? = some st ∧ ProposalFits (some st.op) w.2) :
    MemsFit (some d) (presetMem mem ws) := by
  unfold presetMem
  induction ws generalizing mem with
  | nil => exact h
  | cons w rest ih =>
    rw [List.foldl_cons]
    refine ih (fun k => ?_) fun v hv => hw v (List.mem_cons_of_mem w hv)
    by_cases hk : (k : Nat) = w.1
    · obtain ⟨st, hst, hq⟩ := hw w List.mem_cons_self
      have hget : (mem.setIfInBounds w.1 ((memAt mem w.1).accept (some w.2)))[k] = mem[k].accept (some w.2) := by
        simp [← hk, memAt_eq]
      rw [hget]
      exact (h k).accept (by rw [hk, opAt_of_stage hst]; exact hq)
    · have hget : (mem.setIfInBounds w.1 ((memAt mem w.1).accept (some w.2)))[k] = mem[k] := by
        simp [Vector.getElem_setIfInBounds_ne, Ne.symm hk]
      rw [hget]
      exact h k

/-- The proposals of an instance fit its program (R30). -/
def ProposalsFit (d : Option Definition) (ps : Vector (Option Proposal) 4) : Prop :=
  ∀ (k : Fin 4) q, ps[k] = some q → ProposalFits (opAt d k) q

/-- Memories that fit, with the proposals of a completed instance written and its program's stages seeded, fit
(R47). -/
theorem MemsFit.after {d : Definition} {mem : Vector StageMem 4} (h : MemsFit (some d) mem)
    {ps : Vector (Option Proposal) 4} (hp : ProposalsFit (some d) ps) :
    MemsFit (some d) (memAfter mem ps d.stages.length) := by
  intro k
  have hget : (memAfter mem ps d.stages.length)[k] = if (k : Nat) < d.stages.length then mem[k].accept ps[k] else mem[k] := by
    simp [memAfter]
  rw [hget]
  split
  · next hk =>
    cases hq : ps[k] with
    | some q => exact (h k).accept (hp k q hq)
    | none =>
      obtain ⟨op, hop⟩ := Option.ne_none_iff_exists'.1 (opAt_ne_none hk)
      have hk := h k
      rw [hop] at hk ⊢
      exact hk.seed
  · exact h k

end Sys2Proof.Machine
end

section
/-! SUPPORT. The words a stage proposes lie within R5, and every move keeps the memory words and the proposals there. -/

namespace Sys2Proof.Machine

theorem clamp_bounds {lo hi : Int} (h : lo ≤ hi) (x : Int) : lo ≤ clamp lo hi x ∧ clamp lo hi x ≤ hi := by
  unfold clamp
  split
  · omega
  · split <;> omega

/-- A value of the 32-bit range stands in a memory word as itself. -/
theorem toInt_ofInt32 {x : Int} (h : -2147483648 ≤ x ∧ x ≤ 2147483647) : (BitVec.ofInt 32 x).toInt = x := by
  rw [BitVec.toInt_ofInt, Int.bmod_eq_of_le] <;> omega

theorem count_bounds (c : Count) : -32768 ≤ c.toInt ∧ c.toInt ≤ 32767 := by
  have h1 := c.le_toInt
  have h2 := c.toInt_lt
  omega

/-- The error PID proposes to keep is the difference of two counts (R36). -/
theorem pid_error_bounds (d : StageDesc) (c : Coefs) (m : StageMem) (a b : Count) :
    -65535 ≤ (pidTerms d c m a b).e ∧ (pidTerms d c m a b).e ≤ 65535 := by
  have hs : -32768 ≤ pidSetpoint d c b ∧ pidSetpoint d c b ≤ 32767 := by
    unfold pidSetpoint
    split
    · exact count_bounds b
    · exact count_bounds c.c3
  have ha := count_bounds a
  have he : (pidTerms d c m a b).e = pidSetpoint d c b - a.toInt := rfl
  omega

/-- The integrator PID proposes lies within its range where the one it read does (R5, R36, R38). -/
theorem pid_integrator_bounds (d : StageDesc) (c : Coefs) {m : StageMem} (a b : Count)
    (hm : -134213632 ≤ m.word1.toInt ∧ m.word1.toInt ≤ 134213632) (held : Bool) :
    -134213632 ≤ (if held then (pidTerms d c m a b).i else (pidTerms d c m a b).next)
      ∧ (if held then (pidTerms d c m a b).i else (pidTerms d c m a b).next) ≤ 134213632 := by
  cases held with
  | true => exact hm
  | false =>
    simp only [pidTerms, integratorMax, Bool.false_eq_true, if_false]
    exact clamp_bounds (by omega) _

/-- A stage proposes words that fit its op, where its memory does (R5, R30 to R45). -/
theorem runStage_fits {st : StageDesc} {c : Coefs} {m : StageMem} {a b : Count} (hm : MemFits (some st.op) m)
    {q : Proposal} (hq : (runStage st c m a b).proposal = some q) : ProposalFits (some st.op) q := by
  obtain ⟨-, -, hop⟩ := hm
  unfold runStage at hq
  cases h : st.op with
  | gain | sum | rotate | atan =>
    rw [h] at hq
    cases hq
  | div =>
    rw [h] at hq
    dsimp only [stageDiv] at hq
    split at hq <;> cases hq
  | lpf =>
    rw [h] at hq
    dsimp only [stageLpf] at hq
    split at hq <;> (cases hq; rfl)
  | pid =>
    rw [h] at hq hop
    cases hq
    obtain ⟨h1, h2, -, -⟩ := hop
    have hi := pid_integrator_bounds st c a b ⟨h1, h2⟩ (pidHolds c.c1.toInt (pidTerms st c m a b))
    have he := pid_error_bounds st c m a b
    dsimp only [ProposalFits]
    rw [toInt_ofInt32 (by omega)]
    exact ⟨hi.1, hi.2, _, rfl, by rw [toInt_ofInt32 (by omega)]; exact he⟩
  | limit =>
    rw [h] at hq
    cases hq
    have hv := count_bounds (toCount (limitValue c m a.toInt))
    dsimp only [ProposalFits]
    rw [toInt_ofInt32 (by omega)]
    exact ⟨hv.1, hv.2, rfl⟩

/-! ## Moves -/

theorem MemInv.mems {s : State} (h : MemInv s) (i : LoopId) : MemsFit (s.loop i).definition (s.loop i).mem := h.words i

theorem MemInv.proposals {s : State} (h : MemInv s) {x : Instance} (hx : x ∈ s.cu.live) :
    ProposalsFit (s.loop x.loop).definition x.proposals := h.inFlight x hx

/-- The proposals of an instance that ends a stage fit its program (R30). -/
theorem MemInv.enter {s : State} (hl : LoopInv s) (h : MemInv s) {x : Instance} {d : Definition} {st : StageDesc}
    (he : EndsStage s x d st) : ProposalsFit (some d) (x.enter (s.stageResult x st)).proposals := by
  have hlive : x ∈ s.cu.live := mem_live.2 (.inr (.inl ⟨he.running, he.live⟩))
  obtain ⟨-, d', hd, -, hlo, hhi⟩ := hl.unit.runs hlive
  cases he.definition.symm.trans hd
  have hlen := (hl.unit.programLength _ d he.definition).2
  have hp := h.proposals hlive
  have hm := h.mems x.loop
  rw [he.definition] at hp hm
  intro k q hq
  by_cases hk : (k : Nat) = x.nextStage - 1
  · have hget : (x.enter (s.stageResult x st)).proposals[k] = (s.stageResult x st).proposal := by
      simp [Instance.enter, ← hk]
    rw [hget] at hq
    have hop : opAt (some d) k = some st.op := by rw [hk]; exact opAt_of_stage he.desc
    have hmk := hm k
    rw [hop] at hmk ⊢
    refine runStage_fits ?_ hq
    rw [← hk, memAt_eq]
    exact hmk
  · have hget : (x.enter (s.stageResult x st)).proposals[k] = x.proposals[k] := by
      simp [Instance.enter, Vector.getElem_setIfInBounds_ne, Ne.symm hk]
    rw [hget] at hq
    exact hp k q hq

/-- What a move of one loop entry leaves of its memory fits its program (R5, R14, R16, R20). -/
theorem MemsFit.move {mode : Mode} {c c' : LoopCore} (h : MemsFit c.definition c.mem) (hm : LoopMove mode c c') :
    MemsFit c'.definition c'.mem := by
  cases hm with
  | define _ _ _ => exact memsFit_fresh _
  | clear _ => exact memsFit_fresh _
  | arm _ _ hmem =>
    rcases hmem with rfl | rfl
    · exact h
    · exact memsFit_fresh _
  | leave _ _ _ => exact h
  | activate _ => exact h
  | advance _ => exact h
  | commit => exact h
  | discard => exact h
  | load _ _ _ => exact h
  | preset hd hw =>
    change MemsFit c.definition _
    rw [hd] at h ⊢
    exact h.preset hw

/-- The loop of a live instance keeps its definition through a move (R9, R14, R19). -/
theorem Move.live_definition {s t : State} (h : LoopInv s) (hm : Move s t) {x : Instance} (hx : x ∈ t.cu.live)
    (hs : (s.loop x.loop).status ≠ .noInstance) : (t.loop x.loop).definition = (s.loop x.loop).definition := by
  rcases hm.loop_cases x.loop with ⟨e, -⟩ | hl | hr | ⟨y, d, st, -, -, hc⟩
  · exact e.definition
  · exact ((hl.live (h.unit.activeOnly _)).2 hs).2
  · have hact := ((h.move hm).unit.runs hx).1
    rw [hr] at hact
    cases hact
  · rw [hc]
    rfl

theorem MemInv.move {s t : State} (hl : LoopInv s) (h : MemInv s) (hm : Move s t) : MemInv t where
  words i := by
    change MemsFit (t.loop i).definition (t.loop i).mem
    rcases hm.loop_cases i with ⟨e, hmem⟩ | hlm | hr | ⟨x, d, st, he, rfl, hc⟩
    · rw [e.definition, hmem]
      exact h.mems i
    · exact MemsFit.move (h.mems i) hlm
    · rw [hr]
      exact memsFit_fresh _
    · have hfit := h.mems x.loop
      rw [he.definition] at hfit
      rw [hc]
      change MemsFit (s.loop x.loop).definition _
      rw [he.definition]
      exact hfit.after (h.enter hl he)
  inFlight x hx := by
    change ProposalsFit (t.loop x.loop).definition x.proposals
    rcases hm.live_cases hl hx with hx' | hfresh | ⟨y, d, st, he, rfl⟩
    · rw [hm.live_definition hl hx ((hl.unit.placed.live_iff x.loop).2 ⟨x, hx', rfl⟩)]
      exact h.proposals hx'
    · intro k q hq
      rw [hfresh] at hq
      simp at hq
    · have hy : y ∈ s.cu.live := mem_live.2 (.inr (.inl ⟨he.running, he.live⟩))
      rw [hm.live_definition hl hx ((hl.unit.placed.live_iff _).2 ⟨y, hy, rfl⟩)]
      change ProposalsFit (s.loop y.loop).definition _
      rw [he.definition]
      exact h.enter hl he

end Sys2Proof.Machine

open Sys2Proof.Machine

/-- Settles O56, move by move: every move keeps the definitions and the banks legal, and, while the loops and the
unit agree, the memory words and the proposals within R5. -/
theorem coefficientBanksStayLegal : Obligations.CoefficientBanksStayLegal := by
  refine ⟨fun _ _ hs h => step_keeps (fun _ _ => CoefInv.move) hs h, fun s t hl hs h => ?_⟩
  have hboth : LoopInv t ∧ MemInv t :=
    step_keeps (P := fun u => LoopInv u ∧ MemInv u) (fun _ _ hu hm => ⟨hu.1.move hm, hu.2.move hu.1 hm⟩) ⟨hl, hs⟩ h
  exact hboth.2
end

section
/-! SUPPORT. Reading fields of a payload back, and what a mask request comes to (R15). -/

namespace Sys2Proof.Machine

/-! ## Bytes and fields -/

theorem extract_append_16 (w : BitVec 16) : w.extractLsb' 8 8 ++ w.extractLsb' 0 8 = w := by
  ext i hi
  simp only [BitVec.getElem_append, BitVec.getElem_extractLsb']
  split
  · simp [BitVec.getLsbD_eq_getElem hi]
  · rw [show 8 + (i - 8) = i by omega]
    simp [BitVec.getLsbD_eq_getElem hi]

/-- A field of two bytes is read back from where it was written (00_scope.md, most significant byte first). -/
theorem word16At_bytes16 (w : BitVec 16) (l : List Byte) : word16At (bytes16 w ++ l) 0 = w := extract_append_16 w

theorem word16At_bytes16_self (w : BitVec 16) : word16At (bytes16 w) 0 = w := extract_append_16 w

theorem natByte_toNat {n : Nat} (h : n < 256) : (natByte n).toNat = n := by
  simp [natByte, Nat.mod_eq_of_lt h]

theorem loopOfByte_natByte (i : LoopId) : loopOfByte (natByte i) = some i := by
  have h := natByte_toNat (show (i : Nat) < 256 by omega)
  unfold loopOfByte
  rw [dif_pos (by rw [h]; exact i.isLt)]
  exact congrArg some (Fin.ext h)

theorem loopOfByte_eq_none {b : Byte} : loopOfByte b = none ↔ 15 < b.toNat := by
  unfold loopOfByte
  split <;> simp <;> omega

theorem loopOfByte_eq_some {b : Byte} {i : LoopId} : loopOfByte b = some i ↔ (i : Nat) = b.toNat := by
  unfold loopOfByte
  split
  · next h => rw [Option.some.injEq, Fin.ext_iff, eq_comm]
  · next h =>
    have hi := i.isLt
    simp only [reduceCtorEq, false_iff]
    omega

/-! ## The checks of the mask requests -/

theorem armCheck_badLoop {l : LoopEntry} : armCheck l = some .badLoop ↔ l.state = .empty := by
  unfold armCheck
  split <;> simp_all

theorem armCheck_mode (l : LoopEntry) : armCheck l ≠ some .mode := by
  unfold armCheck
  split <;> simp

theorem armCheck_state {l : LoopEntry} : armCheck l = some .state ↔
    l.state = .active ∨ l.state = .held .host ∨ l.state = .held .safe := by
  unfold armCheck
  cases hs : l.state with
  | held r => cases r <;> simp
  | empty | idle | armed | active | faulted => simp

theorem holdCheck_badLoop {l : LoopEntry} : holdCheck l = some .badLoop ↔ l.state = .empty := by
  unfold holdCheck
  split <;> simp_all

theorem holdCheck_mode (l : LoopEntry) : holdCheck l ≠ some .mode := by
  unfold holdCheck
  split <;> simp

theorem holdCheck_state {l : LoopEntry} : holdCheck l = some .state ↔ l.state = .idle ∨ l.state = .faulted := by
  unfold holdCheck
  cases hs : l.state <;> simp

theorem unholdCheck_badLoop {l : LoopEntry} : unholdCheck l = some .badLoop ↔ l.state = .empty := by
  unfold unholdCheck
  cases hs : l.state with
  | held r => cases r <;> simp
  | empty | idle | armed | active | faulted => simp

theorem unholdCheck_mode {l : LoopEntry} : unholdCheck l = some .mode ↔ l.state = .held .safe := by
  unfold unholdCheck
  cases hs : l.state with
  | held r => cases r <;> simp
  | empty | idle | armed | active | faulted => simp

theorem unholdCheck_state {l : LoopEntry} : unholdCheck l = some .state ↔
    l.state = .idle ∨ l.state = .armed ∨ l.state = .active ∨ l.state = .faulted := by
  unfold unholdCheck
  cases hs : l.state with
  | held r => cases r <;> simp
  | empty | idle | armed | active | faulted => simp

theorem checkDefined_badLoop {l : LoopEntry} : checkDefined l = some .badLoop ↔ l.state = .empty := by
  unfold checkDefined
  split <;> simp_all

/-! ## The refusal of a mask request -/

theorem maskRefusal_badLoop {checks : LoopId → Option Result} {m : LoopMask}
    (h : ∃ i, names m i = true ∧ checks i = some .badLoop) :
    maskRefusal checks m = some (.badLoop, failMask checks m .badLoop) := if_pos (failMask_ne_zero.2 h)

theorem maskRefusal_mode {checks : LoopId → Option Result} {m : LoopMask}
    (hb : ¬∃ i, names m i = true ∧ checks i = some .badLoop) (h : ∃ i, names m i = true ∧ checks i = some .mode) :
    maskRefusal checks m = some (.mode, failMask checks m .mode) := by
  unfold maskRefusal
  rw [if_neg (mt failMask_ne_zero.1 hb), if_pos (failMask_ne_zero.2 h)]

theorem maskRefusal_state {checks : LoopId → Option Result} {m : LoopMask}
    (hb : ¬∃ i, names m i = true ∧ checks i = some .badLoop) (hm : ¬∃ i, names m i = true ∧ checks i = some .mode)
    (h : ∃ i, names m i = true ∧ checks i = some .state) :
    maskRefusal checks m = some (.state, failMask checks m .state) := by
  unfold maskRefusal
  rw [if_neg (mt failMask_ne_zero.1 hb), if_neg (mt failMask_ne_zero.1 hm), if_pos (failMask_ne_zero.2 h)]

theorem maskRefusal_passed {checks : LoopId → Option Result} {m : LoopMask}
    (h : ∀ i, names m i = true → checks i = none) : maskRefusal checks m = none := by
  have hno : ∀ r, ¬∃ i, names m i = true ∧ checks i = some r := fun r ⟨i, hi, hc⟩ => by
    rw [h i hi] at hc
    cases hc
  unfold maskRefusal
  rw [if_neg (mt failMask_ne_zero.1 (hno _)), if_neg (mt failMask_ne_zero.1 (hno _)),
    if_neg (mt failMask_ne_zero.1 (hno _))]

/-- A mask that names a loop is not 0000h. -/
theorem ne_zero_of_names {m : LoopMask} {i : LoopId} (h : names m i = true) : m ≠ 0 := by
  rintro rfl
  simp [names] at h

/-- The response of a mask request that has been taken: OK with a failing-loop mask of 0000h (R15, R173). -/
theorem acceptMask_eq (s : State) : acceptMask s = (s, [0x00, 0x00, 0x00]) := rfl

theorem maskRequest_taken {s : State} {m : LoopMask} {check : LoopEntry → Option Result} {act : LoopMask → State → State}
    (hm : m ≠ 0) (h : ∀ i, names m i = true → check (s.loop i) = none) :
    s.maskRequest (bytes16 m) check act = acceptMask (act m s) := by
  unfold State.maskRequest
  rw [if_neg (by simp [bytes16]), word16At_bytes16_self, if_neg hm,
    maskRefusal_passed (checks := fun i => check (s.loop i)) h]

theorem maskRequest_refused {s : State} {m : LoopMask} {check : LoopEntry → Option Result}
    {act : LoopMask → State → State} {r : Result} {x : LoopMask} (hm : m ≠ 0)
    (h : maskRefusal (fun i => check (s.loop i)) m = some (r, x)) :
    s.maskRequest (bytes16 m) check act = refuseMask s r x := by
  unfold State.maskRequest
  rw [if_neg (by simp [bytes16]), word16At_bytes16_self, if_neg hm, h]

theorem word16At_zeros (l : List Byte) : word16At (0 :: 0 :: l) 0 = 0 := word16At_bytes16 0 l

theorem maskRequest_zero (s : State) (check : LoopEntry → Option Result) (act : LoopMask → State → State) :
    s.maskRequest [0, 0] check act = refuseMask s .badField 0 := by
  unfold State.maskRequest
  rw [if_neg (by simp), if_pos (word16At_zeros [])]

theorem commitCoef_zero (s : State) {b : Byte} (hb : b = 0 ∨ b = 1) :
    reqCommitCoef [0, 0, b] s = refuseMask s .badField 0 := by
  have hcommit : ∀ f, s.commit (word16At [0, 0, b] 0) f = refuseMask s .badField 0 := fun f => by
    unfold State.commit
    rw [if_pos (word16At_zeros [b])]
  unfold reqCommitCoef
  rw [if_neg (by simp)]
  rcases hb with rfl | rfl
  · exact hcommit _
  · exact hcommit _

theorem clearAlarms_zero (s : State) (f : Byte) : reqClearAlarms [0, 0, f] s = refuseMask s .badField 0 := by
  unfold reqClearAlarms
  rw [if_neg (by simp)]
  split
  · rfl
  · rw [if_pos (.inl (word16At_zeros [f]))]

theorem maskAlarms_zero (s : State) (f : Byte) : reqMaskAlarms [0, 0, f] s = refuseMask s .badField 0 := by
  unfold reqMaskAlarms
  rw [if_neg (by simp)]
  split
  · rfl
  · rw [if_pos (word16At_zeros [f])]

theorem commitCoef_refused {s : State} {m : LoopMask} {b : Byte} {r : Result} {x : LoopMask} (hb : b = 0 ∨ b = 1)
    (hm : m ≠ 0) (h : maskRefusal (fun i => checkDefined (s.loop i)) m = some (r, x)) :
    reqCommitCoef (bytes16 m ++ [b]) s = refuseMask s r x := by
  have hw : word16At (bytes16 m ++ [b]) 0 = m := word16At_bytes16 m [b]
  have hcommit : ∀ f, s.commit m f = refuseMask s r x := fun f => by
    unfold State.commit
    rw [if_neg hm, h]
  unfold reqCommitCoef
  rw [if_neg (by simp [bytes16]), hw]
  rcases hb with rfl | rfl
  · exact hcommit _
  · exact hcommit _

theorem maskAlarms_refused {s : State} {m : LoopMask} {f : Byte} {r : Result} {x : LoopMask} (hf : f.toNat < 32)
    (hm : m ≠ 0) (h : maskRefusal (fun i => checkDefined (s.loop i)) m = some (r, x)) :
    reqMaskAlarms (bytes16 m ++ [f]) s = refuseMask s r x := by
  have hw : word16At (bytes16 m ++ [f]) 0 = m := word16At_bytes16 m [f]
  have hflags : flagsOfByte (byteAt (bytes16 m ++ [f]) 2) = some (f.setWidth 5) := if_pos hf
  unfold reqMaskAlarms
  rw [if_neg (by simp [bytes16]), hflags]
  dsimp only
  rw [hw, if_neg hm, h]

/-- A request refused with the failing mask of a check: what its response says (R15, R173). -/
theorem refused_with_mask {s : State} {m : LoopMask} {check : LoopEntry → Option Result} {r : Result} {c : Instr}
    {kind tag code : Byte} {failed : LoopEntry → Prop} {req : State × List Byte}
    (hexec : exec c s = .next (req.1.reply kind tag req.2))
    (hreq : req = refuseMask s r (failMask (fun i => check (s.loop i)) m r))
    (hcode : r.toByte = code) (hfailed : ∀ l, check l = some r ↔ failed l) :
    ∃ x : LoopMask, (∀ i : LoopId, x.getLsbD i = true ↔ (names m i = true ∧ failed (s.loop i)))
      ∧ exec c s = .next (s.reply kind tag (code :: bytes16 x)) := by
  subst hreq hcode
  exact ⟨failMask (fun i => check (s.loop i)) m r, fun i => by rw [getLsbD_failMask, hfailed], hexec⟩

end Sys2Proof.Machine

open Sys2Proof Sys2Proof.Machine

/-- Settles O22: a refused mask request answers the earliest check that failed and the mask of the loops that failed
it, check by check. -/
theorem maskRequestsRefuseAllOrNothing : Obligations.MaskRequestsRefuseAllOrNothing := by
  intro s tag m f hs
  dsimp only
  have hne : ∀ {failed : LoopId → Prop}, (∃ i, names m i = true ∧ failed i) → m ≠ 0 :=
    fun ⟨_, hi, _⟩ => ne_zero_of_names hi
  have hex : ∀ {check : LoopEntry → Option Result} {r : Result} {failed : LoopEntry → Prop},
      (∀ l, check l = some r ↔ failed l) → (∃ i, names m i = true ∧ failed (s.loop i)) →
      ∃ i, names m i = true ∧ check (s.loop i) = some r :=
    fun hc ⟨i, hi, hf⟩ => ⟨i, hi, (hc _).2 hf⟩
  have hno : ∀ {check : LoopEntry → Option Result} {r : Result} {failed : LoopEntry → Prop},
      (∀ l, check l = some r ↔ failed l) → (¬∃ i, names m i = true ∧ failed (s.loop i)) →
      ¬∃ i, names m i = true ∧ check (s.loop i) = some r :=
    fun hc hn ⟨i, hi, hf⟩ => hn ⟨i, hi, (hc _).1 hf⟩
  refine ⟨?_, fun he => ⟨?_, ?_, ?_, ?_, ?_, fun hf => ?_⟩, fun hn h => ?_, fun hn h => ?_, fun hn h => ?_,
    fun hn hm h => ?_⟩
  · rintro - c kind hmem
    have hrefuse : refuseMask s .badField 0 = (s, [0x03, 0x00, 0x00]) := rfl
    simp only [List.mem_cons, Prod.mk.injEq, List.not_mem_nil, or_false] at hmem
    rcases hmem with ⟨rfl, rfl⟩ | ⟨rfl, rfl⟩ | ⟨rfl, rfl⟩ | ⟨rfl, rfl⟩ | ⟨rfl, rfl⟩ | ⟨rfl, rfl⟩ | ⟨rfl, rfl⟩ | ⟨rfl, rfl⟩
    · rw [exec_armLoop hs, reqArmLoop, maskRequest_zero, hrefuse]
    · rw [exec_holdLoop hs, reqHoldLoop, maskRequest_zero, hrefuse]
    · rw [exec_unholdLoop hs, reqUnholdLoop, maskRequest_zero, hrefuse]
    · rw [exec_clearLoop hs, reqClearLoop, maskRequest_zero, hrefuse]
    · rw [exec_commitCoefApply hs, List.cons_append, List.cons_append, List.nil_append, commitCoef_zero s (.inl rfl),
        hrefuse]
    · rw [exec_commitCoefDiscard hs, List.cons_append, List.cons_append, List.nil_append, commitCoef_zero s (.inr rfl),
        hrefuse]
    · rw [exec_clearAlarms hs, clearAlarms_zero, hrefuse]
    · rw [exec_maskAlarms hs, maskAlarms_zero, hrefuse]
  · exact refused_with_mask (exec_armLoop hs tag _)
      (maskRequest_refused (hne he) (maskRefusal_badLoop (hex (fun _ => armCheck_badLoop) he))) rfl
      fun _ => armCheck_badLoop
  · exact refused_with_mask (exec_holdLoop hs tag _)
      (maskRequest_refused (hne he) (maskRefusal_badLoop (hex (fun _ => holdCheck_badLoop) he))) rfl
      fun _ => holdCheck_badLoop
  · exact refused_with_mask (exec_unholdLoop hs tag _)
      (maskRequest_refused (hne he) (maskRefusal_badLoop (hex (fun _ => unholdCheck_badLoop) he))) rfl
      fun _ => unholdCheck_badLoop
  · exact refused_with_mask (exec_commitCoefApply hs tag _)
      (commitCoef_refused (.inl rfl) (hne he) (maskRefusal_badLoop (hex (fun _ => checkDefined_badLoop) he))) rfl
      fun _ => checkDefined_badLoop
  · exact refused_with_mask (exec_commitCoefDiscard hs tag _)
      (commitCoef_refused (.inr rfl) (hne he) (maskRefusal_badLoop (hex (fun _ => checkDefined_badLoop) he))) rfl
      fun _ => checkDefined_badLoop
  · exact refused_with_mask (exec_maskAlarms hs tag _)
      (maskAlarms_refused hf (hne he) (maskRefusal_badLoop (hex (fun _ => checkDefined_badLoop) he))) rfl
      fun _ => checkDefined_badLoop
  · exact refused_with_mask (exec_armLoop hs tag _)
      (maskRequest_refused (hne h) (maskRefusal_state (hno (fun _ => armCheck_badLoop) hn)
        (fun ⟨i, _, hi⟩ => armCheck_mode _ hi) (hex (fun _ => armCheck_state) h))) rfl fun _ => armCheck_state
  · exact refused_with_mask (exec_holdLoop hs tag _)
      (maskRequest_refused (hne h) (maskRefusal_state (hno (fun _ => holdCheck_badLoop) hn)
        (fun ⟨i, _, hi⟩ => holdCheck_mode _ hi) (hex (fun _ => holdCheck_state) h))) rfl fun _ => holdCheck_state
  · exact refused_with_mask (exec_unholdLoop hs tag _)
      (maskRequest_refused (hne h) (maskRefusal_mode (hno (fun _ => unholdCheck_badLoop) hn)
        (hex (fun _ => unholdCheck_mode) h))) rfl fun _ => unholdCheck_mode
  · exact refused_with_mask (exec_unholdLoop hs tag _)
      (maskRequest_refused (hne h) (maskRefusal_state (hno (fun _ => unholdCheck_badLoop) hn)
        (hno (fun _ => unholdCheck_mode) hm) (hex (fun _ => unholdCheck_state) h))) rfl fun _ => unholdCheck_state

/-- Settles O16: a taken ARM_LOOP or UNHOLD_LOOP is one change of every named entry by its own. -/
theorem armAndUnholdArmTheNamedLoops : Obligations.ArmAndUnholdArmTheNamedLoops := by
  constructor
  · intro s tag m hs hm hstate
    have hpass : ∀ i, names m i = true → armCheck (s.loop i) = none := fun i hi => by
      rcases hstate i hi with h | h | h <;> simp [armCheck, h]
    rw [exec_armLoop hs, reqArmLoop, maskRequest_taken hm hpass, eachNamed_modLoop]
    rw [acceptMask_eq]
    refine congrArg (fun ls => Host.Outcome.next (State.reply { s with loops := Vector.ofFn ls } 0x91 tag _))
      (funext fun i => ?_)
    by_cases hi : names m i = true
    · by_cases ha : (s.loop i).state = .armed
      · simp [hi, ha, LoopEntry.arm]
      · rcases hstate i hi with h | h | h
        · cases hmode : s.ctl.mode <;>
            simp [hi, h, LoopEntry.arm, LoopEntry.startAfresh, LoopEntry.armingPoint, memFresh, StageMem.fresh]
        · exact absurd h ha
        · cases hmode : s.ctl.mode <;>
            simp [hi, h, LoopEntry.arm, LoopEntry.startAfresh, LoopEntry.armingPoint, memFresh, StageMem.fresh]
    · simp [hi]
  · intro s tag m hs hm hstate
    have hpass : ∀ i, names m i = true → unholdCheck (s.loop i) = none := fun i hi => by
      simp [unholdCheck, hstate i hi]
    rw [exec_unholdLoop hs, reqUnholdLoop, maskRequest_taken hm hpass, eachNamed_modLoop]
    rw [acceptMask_eq]
    refine congrArg (fun ls => Host.Outcome.next (State.reply { s with loops := Vector.ofFn ls } 0x93 tag _))
      (funext fun i => ?_)
    by_cases hi : names m i = true
    · cases hmode : s.ctl.mode <;> simp [hi, LoopEntry.unhold, LoopEntry.armingPoint]
    · simp [hi]
end

section
/-! SUPPORT. DEFINE_LOOP: the ranges a payload that passes the field check meets (R13, R174), and the encoding and
decoding of a definition (10.2, 10.3). -/

namespace Sys2Proof.Machine

/-! ## The ranges of R13 -/

theorem parseBinding_range {f x : Byte} {v : Binding} (h : parseBinding f x = some v) :
    ¬(3 < f.toNat ∨ (f.toNat = 1 ∧ 31 < x.toNat) ∨ (f.toNat = 2 ∧ 15 < x.toNat) ∨ (f.toNat = 3 ∧ 15 < x.toNat)) := by
  have hloop : ∀ g : LoopId → Binding, (loopOfByte x).map g = some v → ¬15 < x.toNat := fun g hg hx => by
    rw [loopOfByte_eq_none.2 hx] at hg
    cases hg
  unfold parseBinding at h
  split at h
  · omega
  · unfold slotOfByte at h
    split at h
    · omega
    · cases h
  · have := hloop _ h
    omega
  · have := hloop _ h
    omega
  · cases h

theorem parseInputB_range {f x : Byte} {v : Option Binding} (h : parseInputB f x = some v) (hf : f.toNat ≠ 255) :
    ¬(3 < f.toNat ∨ (f.toNat = 1 ∧ 31 < x.toNat) ∨ (f.toNat = 2 ∧ 15 < x.toNat) ∨ (f.toNat = 3 ∧ 15 < x.toNat)) := by
  unfold parseInputB at h
  rw [if_neg fun e => hf (by rw [e]; rfl)] at h
  obtain ⟨u, hu, -⟩ := Option.map_eq_some_iff.1 h
  exact parseBinding_range hu

theorem holdAction_range {b : Byte} {v : HoldAction} (h : HoldAction.ofByte b = some v) : b.toNat ≤ 1 := by
  unfold HoldAction.ofByte at h
  split at h
  · omega
  · omega
  · cases h

theorem stalePolicy_range {b : Byte} {v : StalePolicy} (h : StalePolicy.ofByte b = some v) : b.toNat ≤ 2 := by
  unfold StalePolicy.ofByte at h
  split at h
  · omega
  · omega
  · omega
  · cases h

theorem arithPolicy_range {b : Byte} {v : ArithPolicy} (h : ArithPolicy.ofByte b = some v) : b.toNat ≤ 1 := by
  unfold ArithPolicy.ofByte at h
  split at h
  · omega
  · omega
  · cases h

theorem reportMode_range {b : Byte} {v : ReportMode} (h : ReportMode.ofByte b = some v) :
    b.toNat ≤ 3 ∧ (b.toNat = 1 → v = .divide) ∧ (b.toNat = 2 → v = .change) := by
  unfold ReportMode.ofByte at h
  split at h
  · next hb => exact ⟨by omega, fun h1 => by omega, fun h2 => by omega⟩
  · next hb => cases h; exact ⟨by omega, fun _ => rfl, fun h2 => by omega⟩
  · next hb => cases h; exact ⟨by omega, fun h1 => by omega, fun _ => rfl⟩
  · next hb => exact ⟨by omega, fun h1 => by omega, fun h2 => by omega⟩
  · cases h

theorem flags_range {b : Byte} {v : FlagSet} (h : flagsOfByte b = some v) : b.toNat ≤ 31 := by
  unfold flagsOfByte at h
  split at h
  · omega
  · cases h

theorem stageOp_range {b : Byte} {v : StageOp} (h : StageOp.ofByte b = some v) :
    1 ≤ b.toNat ∧ b.toNat ≤ 8 ∧ (b.toNat = 1 → v = .gain) ∧ (b.toNat = 3 → v = .lpf) ∧ (b.toNat = 8 → v = .limit) := by
  unfold StageOp.ofByte at h
  split at h <;> first
    | cases h; simp [*]
    | cases h

/-- A stage entry that passes the field check lies within the ranges of R13. -/
theorem parseStage_range {p : List Byte} {e : Nat} {st : StageDesc} {c : Coefs} (h : parseStage p e = some (st, c)) :
    ¬((byteAt p e).toNat = 0 ∨ 8 < (byteAt p e).toNat ∨ 15 < (byteAt p (e + 2)).toNat
      ∨ ((byteAt p e).toNat = 1 ∧ 2 < (byteAt p (e + 1)).toNat)
      ∨ ((byteAt p e).toNat = 3 ∧ (word16At p (e + 4)).toInt < 0)
      ∨ ((byteAt p e).toNat = 8 ∧ (word16At p (e + 6)).toInt < (word16At p (e + 4)).toInt)) := by
  obtain ⟨hop, ht, hs, -, hc, hgain, hlpf, hlimit⟩ := parseStage_eq_some.1 h
  obtain ⟨h1, h8, hg, hl, hm⟩ := stageOp_range hop
  have hshift := st.shift.isLt
  subst hc
  rintro (h | h | h | ⟨h, h'⟩ | ⟨h, h'⟩ | ⟨h, h'⟩)
  · omega
  · omega
  · omega
  · have := hgain (hg h)
    rw [← ht] at this
    omega
  · exact absurd (hlpf (hl h)) (Int.not_le.2 h')
  · exact absurd (hlimit (hm h)) (Int.not_le.2 h')

/-- A payload that passes the field check lies within the ranges of R13, field by field. -/
theorem Reads.in_range {p : List Byte} {sts : List (StageDesc × Coefs)} {d : Definition} {bank : Bank}
    (h : Reads p sts d bank) :
    (byteAt p 1).toNat ≤ 7 ∧ 0 < (word16At p 2).toNat ∧ (word16At p 4).toNat < (word16At p 2).toNat
      ∧ (word16At p 11).toInt ≤ (word16At p 13).toInt ∧ (word16At p 11).toInt ≤ (word16At p 15).toInt
      ∧ (word16At p 15).toInt ≤ (word16At p 13).toInt
      ∧ ((byteAt p 23).toNat = 1 → 2 ≤ (word16At p 24).toNat ∧ (word16At p 24).toNat ≤ 255)
      ∧ ((byteAt p 23).toNat = 2 → (word16At p 24).toNat ≠ 0) := by
  obtain ⟨-, hdivide, hchange⟩ := reportMode_range h.reportMode
  have hl := h.legal
  have hprio := d.priority.isLt
  rw [h.priority, h.period, h.offset, h.outMin, h.outMax, h.safeValue, h.reportParam]
  exact ⟨by omega, hl.period, hl.offset, hl.outRange, hl.safeValue.1, hl.safeValue.2, fun hb => hl.divide (hdivide hb),
    fun hb h0 => hl.change (hchange hb) (BitVec.eq_of_toNat_eq h0)⟩

/-- A stage entry counted by the payload passes the field check. -/
theorem Reads.stage_parsed {p : List Byte} {sts : List (StageDesc × Coefs)} {d : Definition} {bank : Bank}
    (h : Reads p sts d bank) {k : Nat} (hk : k < (byteAt p 10).toNat) : ∃ st c, parseStage p (28 + 12 * k) = some (st, c) := by
  rw [← h.length] at hk
  exact ⟨_, _, h.stage (List.getElem?_eq_getElem hk)⟩

end Sys2Proof.Machine

open Sys2Proof Sys2Proof.Machine

/-- Settles O15: a payload that passes the field check lies within every range R13 names. -/
theorem defineLoopRefusesBadFields : Obligations.DefineLoopRefusesBadFields := by
  intro s tag p hs
  dsimp only
  intro h11 hlen hbad
  have hreq : reqDefineLoop p s = refuse s .badField := by
    unfold reqDefineLoop
    rw [if_neg (by omega)]
    split
    · next i d bank hi hp =>
      exfalso
      obtain ⟨sts, hr⟩ := parseDefinition_eq_some.1 hp
      have h0 := loopOfByte_eq_some.1 hi
      have hi := i.isLt
      obtain ⟨h1, h2, h4, h13, h15, h15', h24, h24'⟩ := hr.in_range
      have h10 := hr.count
      have h17 := holdAction_range hr.holdAction
      have h18 := stalePolicy_range hr.stalePolicy
      have h22 := arithPolicy_range hr.arithPolicy
      obtain ⟨h23, -, -⟩ := reportMode_range hr.reportMode
      have h27 := flags_range hr.alarmMask
      rcases hbad with h | h | h | h | h | ⟨hne, h⟩ | h | h | h | h | h | h | h | h | h | h | h | h | ⟨k, hk, h⟩
      · omega
      · omega
      · omega
      · omega
      · exact parseBinding_range hr.inputA h
      · exact parseInputB_range hr.inputB hne h
      · omega
      · omega
      · omega
      · omega
      · omega
      · omega
      · omega
      · omega
      · omega
      · omega
      · omega
      · omega
      · obtain ⟨st, c, hst⟩ := hr.stage_parsed hk
        exact parseStage_range hst h
    · rfl
  rw [exec_defineLoop hs, hreq]
  rfl
end

section
/-! SUPPORT. DEFINE_LOOP: what a payload built from the layout reads as, and the bytes that count for nothing
(10.2, 10.3, R174). -/

namespace Sys2Proof.Machine

/-! ## Encoding and decoding -/

theorem stageOp_ofByte_toByte (op : StageOp) : StageOp.ofByte op.toByte = some op := by cases op <;> rfl
theorem holdAction_ofByte_toByte (a : HoldAction) : HoldAction.ofByte a.toByte = some a := by cases a <;> rfl
theorem stalePolicy_ofByte_toByte (a : StalePolicy) : StalePolicy.ofByte a.toByte = some a := by cases a <;> rfl
theorem arithPolicy_ofByte_toByte (a : ArithPolicy) : ArithPolicy.ofByte a.toByte = some a := by cases a <;> rfl
theorem reportMode_ofByte_toByte (a : ReportMode) : ReportMode.ofByte a.toByte = some a := by cases a <;> rfl

theorem flagsOfByte_flagsByte (f : FlagSet) : flagsOfByte (flagsByte f) = some f := by
  have hlt := f.isLt
  have hn : (flagsByte f).toNat = f.toNat := by
    simp only [flagsByte, BitVec.toNat_setWidth]
    omega
  unfold flagsOfByte
  rw [if_pos (by omega)]
  exact congrArg some (BitVec.eq_of_toNat_eq (by simp [flagsByte]))

theorem boolByte_ne_zero (b : Bool) : (boolByte b != 0) = b := by cases b <;> rfl

theorem slotOfByte_natByte (k : SlotId) : slotOfByte (natByte k) = some k := by
  have h := natByte_toNat (show (k : Nat) < 256 by omega)
  unfold slotOfByte
  rw [dif_pos (by rw [h]; exact k.isLt)]
  exact congrArg some (Fin.ext h)

/-- The two bytes a binding is written as read as that binding (R3, 10.2). -/
theorem binding_bytes_read (b : Binding) : ∃ f x, b.toBytes = [f, x] ∧ f.toNat < 4 ∧ parseBinding f x = some b := by
  cases b with
  | zero => exact ⟨0, 0, rfl, by decide, rfl⟩
  | sample k => exact ⟨1, natByte k, rfl, by decide, by rw [parseBinding]; simp [slotOfByte_natByte]⟩
  | primary n => exact ⟨2, natByte n, rfl, by decide, by rw [parseBinding]; simp [loopOfByte_natByte]⟩
  | secondary n => exact ⟨3, natByte n, rfl, by decide, by rw [parseBinding]; simp [loopOfByte_natByte]⟩

/-- The two bytes an input B is written as read as that input B (R2, 10.2). -/
theorem inputB_bytes_read (b : Option Binding) : ∃ f x, inputBBytes b = [f, x] ∧ parseInputB f x = some b := by
  cases b with
  | none => exact ⟨0xFF, 0, rfl, rfl⟩
  | some b =>
    obtain ⟨f, x, hb, hf, hr⟩ := binding_bytes_read b
    refine ⟨f, x, hb, ?_⟩
    unfold parseInputB
    rw [if_neg (by rintro rfl; exact absurd hf (by decide)), hr]
    rfl

theorem byteAt_append_right (l l' : List Byte) (j : Nat) : byteAt (l ++ l') (l.length + j) = byteAt l' j := by
  unfold byteAt
  rw [List.getD_append_right _ _ _ _ (Nat.le_add_right _ _), Nat.add_sub_cancel_left]

theorem byteAt_append_left {l l' : List Byte} {j : Nat} (h : j < l.length) : byteAt (l ++ l') j = byteAt l j :=
  List.getD_append _ _ _ _ h

theorem length_stageEntryBytes (st : StageDesc) (c : Coefs) : (stageEntryBytes st c).length = 12 := rfl

theorem length_stageEntriesBytes (sts : List (StageDesc × Coefs)) : (stageEntriesBytes sts).length = 12 * sts.length := by
  induction sts with
  | nil => rfl
  | cons st rest ih =>
    rw [stageEntriesBytes, List.flatMap_cons, List.length_append, length_stageEntryBytes]
    rw [stageEntriesBytes] at ih
    rw [ih, List.length_cons]
    omega

/-- A byte of a stage entry stands in the row of entries at its entry's place (10.3). -/
theorem byteAt_stageEntries {sts : List (StageDesc × Coefs)} {k : Nat} {st : StageDesc} {c : Coefs}
    (h : sts[k]? = some (st, c)) {r : Nat} (hr : r < 12) :
    byteAt (stageEntriesBytes sts) (12 * k + r) = byteAt (stageEntryBytes st c) r := by
  induction sts generalizing k with
  | nil => simp at h
  | cons hd rest ih =>
    have hcons : stageEntriesBytes (hd :: rest) = stageEntryBytes hd.1 hd.2 ++ stageEntriesBytes rest := by
      simp [stageEntriesBytes]
    rw [hcons]
    cases k with
    | zero =>
      rw [List.getElem?_cons_zero, Option.some.injEq] at h
      subst h
      rw [Nat.mul_zero, Nat.zero_add, byteAt_append_left hr]
    | succ k =>
      rw [List.getElem?_cons_succ] at h
      rw [← ih h, show 12 * (k + 1) + r = (stageEntryBytes hd.1 hd.2).length + (12 * k + r) by
        rw [length_stageEntryBytes]; omega, byteAt_append_right]

/-- The stage entries behind the 28 bytes of the definition's own fields read as they were written (10.3). -/
theorem parseStage_written {head : List Byte} (hlen : head.length = 28) {sts : List (StageDesc × Coefs)} {k : Nat}
    {st : StageDesc} {c : Coefs} (h : sts[k]? = some (st, c)) (hgain : st.op = .gain → st.target.toNat ≤ 2)
    (hc : LegalCoefs st.op c) : parseStage (head ++ stageEntriesBytes sts) (28 + 12 * k) = some (st, c) := by
  have hb : ∀ r, r < 12 → byteAt (head ++ stageEntriesBytes sts) (28 + 12 * k + r) = byteAt (stageEntryBytes st c) r :=
    fun r hr => by rw [← byteAt_stageEntries h hr, ← hlen, Nat.add_assoc, byteAt_append_right]
  have hw : ∀ r, r + 1 < 12 →
      word16At (head ++ stageEntriesBytes sts) (28 + 12 * k + r) = word16At (stageEntryBytes st c) r := fun r hr => by
    unfold word16At
    rw [hb r (by omega), Nat.add_assoc, hb (r + 1) hr]
  refine parseStage_eq_some.2 ⟨?_, ?_, ?_, ?_, ?_, hgain, hc⟩
  · rw [show 28 + 12 * k = 28 + 12 * k + 0 from rfl, hb 0 (by omega)]
    exact stageOp_ofByte_toByte st.op
  · rw [hb 1 (by omega)]
    rfl
  · rw [hb 2 (by omega)]
    exact natByte_toNat (by omega)
  · rw [hb 3 (by omega)]
    exact boolByte_ne_zero _
  · unfold coefsAt
    rw [Nat.add_assoc _ 4 2, Nat.add_assoc _ 4 4, Nat.add_assoc _ 4 6, hw 4 (by omega), hw (4 + 2) (by omega),
      hw (4 + 4) (by omega), hw (4 + 6) (by omega)]
    obtain ⟨c0, c1, c2, c3⟩ := c
    exact congrArg₂ (fun f w => f w) (congrArg₂ (fun f w => f w) (congrArg₂ Coefs.mk (extract_append_16 c0)
      (extract_append_16 c1)) (extract_append_16 c2)) (extract_append_16 c3)

/-- The 28 bytes of the definition's own fields (10.3). -/
def defineLoopHead (i : LoopId) (d : Definition) : List Byte :=
  [natByte i, natByte d.priority] ++ bytes16 d.period ++ bytes16 d.offset
    ++ d.inputA.toBytes ++ inputBBytes d.inputB ++ [natByte d.stages.length]
    ++ bytes16 d.outMin ++ bytes16 d.outMax ++ bytes16 d.safeValue
    ++ [d.holdAction.toByte, d.stalePolicy.toByte] ++ bytes16 d.maxAge
    ++ [d.missLimit, d.arithPolicy.toByte, d.reportMode.toByte] ++ bytes16 d.reportParam
    ++ [boolByte d.includeSecondary, flagsByte d.alarmMask]

/-- The 28 bytes one by one, around those of the two bindings (10.3). -/
theorem defineLoopHead_bytes (i : LoopId) {d : Definition} {f x g y : Byte} (hA : d.inputA.toBytes = [f, x])
    (hB : inputBBytes d.inputB = [g, y]) : defineLoopHead i d =
      [natByte i, natByte d.priority, d.period.extractLsb' 8 8, d.period.extractLsb' 0 8,
        d.offset.extractLsb' 8 8, d.offset.extractLsb' 0 8, f, x, g, y, natByte d.stages.length,
        d.outMin.extractLsb' 8 8, d.outMin.extractLsb' 0 8, d.outMax.extractLsb' 8 8, d.outMax.extractLsb' 0 8,
        d.safeValue.extractLsb' 8 8, d.safeValue.extractLsb' 0 8, d.holdAction.toByte, d.stalePolicy.toByte,
        d.maxAge.extractLsb' 8 8, d.maxAge.extractLsb' 0 8, d.missLimit, d.arithPolicy.toByte, d.reportMode.toByte,
        d.reportParam.extractLsb' 8 8, d.reportParam.extractLsb' 0 8, boolByte d.includeSecondary,
        flagsByte d.alarmMask] := by
  simp [defineLoopHead, bytes16, hA, hB]

theorem byteAt_cons_zero (b : Byte) (l : List Byte) : byteAt (b :: l) 0 = b := rfl

theorem byteAt_cons_succ (b : Byte) (l : List Byte) (n : Nat) : byteAt (b :: l) (n + 1) = byteAt l n := rfl

theorem defineLoopBytes_eq (i : LoopId) (d : Definition) (cs : List Coefs) :
    defineLoopBytes i d cs = defineLoopHead i d ++ stageEntriesBytes (d.stages.zip cs) := rfl

theorem bytes16_length (w : BitVec 16) : (bytes16 w).length = 2 := rfl

theorem binding_bytes_length (b : Binding) : b.toBytes.length = 2 := by cases b <;> rfl

theorem inputB_bytes_length (b : Option Binding) : (inputBBytes b).length = 2 := by
  cases b with
  | none => rfl
  | some b => exact binding_bytes_length b

theorem length_defineLoopHead (i : LoopId) (d : Definition) : (defineLoopHead i d).length = 28 := by
  simp [defineLoopHead, bytes16_length, binding_bytes_length, inputB_bytes_length]

theorem length_defineLoopBytes (i : LoopId) (d : Definition) {cs : List Coefs} (h : cs.length = d.stages.length) :
    (defineLoopBytes i d cs).length = 28 + 12 * d.stages.length := by
  rw [defineLoopBytes_eq, List.length_append, length_defineLoopHead, length_stageEntriesBytes, List.length_zip, h,
    Nat.min_self]

theorem byteAt_defineLoop_loop_count (i : LoopId) (d : Definition) (cs : List Coefs) :
    byteAt (defineLoopBytes i d cs) 0 = natByte i ∧ byteAt (defineLoopBytes i d cs) 10 = natByte d.stages.length := by
  obtain ⟨f, x, hA, -⟩ := binding_bytes_read d.inputA
  obtain ⟨g, y, hB, -⟩ := inputB_bytes_read d.inputB
  simp only [defineLoopBytes_eq, defineLoopHead_bytes i hA hB, List.cons_append, byteAt_cons_succ, byteAt_cons_zero,
    and_self]

/-- The payload built from the layout of 10.3 for a legal definition and coefficient words reads as that definition
and those words (R13, R174). -/
theorem reads_defineLoopBytes (i : LoopId) {d : Definition} {cs : List Coefs} (hd : d.Legal)
    (hlen : cs.length = d.stages.length) (hcs : ∀ q ∈ d.stages.zip cs, LegalCoefs q.1.op q.2) :
    Reads (defineLoopBytes i d cs) (d.stages.zip cs) d (bankOf cs) := by
  have hk : (byteAt (defineLoopBytes i d cs) 10).toNat = d.stages.length := by
    have := hd.stageCount.2
    rw [(byteAt_defineLoop_loop_count i d cs).2, natByte_toNat (by omega)]
  have hstages : parseStages (defineLoopBytes i d cs) d.stages.length 28 = some (d.stages.zip cs) := by
    refine parseStages_eq_some.2 ⟨by simp [hlen], fun k hlt => ?_⟩
    cases hq : (d.stages.zip cs)[k] with | mk st c =>
    have hmem : (st, c) ∈ d.stages.zip cs := hq ▸ List.getElem_mem hlt
    have hst : st ∈ d.stages := (List.of_mem_zip hmem).1
    exact parseStage_written (length_defineLoopHead i d) (List.getElem?_eq_some_iff.2 ⟨hlt, hq⟩) (hd.gainTarget st hst)
      (hcs _ hmem)
  have hzip : (d.stages.zip cs).map (·.1) = d.stages ∧ (d.stages.zip cs).map (·.2) = cs :=
    ⟨List.map_fst_zip hlen.ge, List.map_snd_zip hlen.le⟩
  rw [← hk] at hstages
  obtain ⟨f, x, hA, -, hA'⟩ := binding_bytes_read d.inputA
  obtain ⟨g, y, hB, hB'⟩ := inputB_bytes_read d.inputB
  have hbytes := defineLoopBytes_eq i d cs
  rw [defineLoopHead_bytes i hA hB] at hbytes
  generalize defineLoopBytes i d cs = p at hk hstages hbytes ⊢
  refine ⟨?_, ?_, ?_, ?_, ?_, ?_, ?_, ?_, ?_, ?_, ?_, ?_, ?_, ?_, ?_, ?_, ?_, hk.symm ▸ hd.stageCount, hstages,
    hzip.1.symm, ?_, ?_, by rw [hzip.2]⟩
  all_goals try simp only [hbytes, word16At, List.cons_append, byteAt_cons_succ, byteAt_cons_zero, extract_append_16,
    hA', hB', boolByte_ne_zero, flagsOfByte_flagsByte]
  · exact natByte_toNat (by omega)
  · exact holdAction_ofByte_toByte _
  · exact stalePolicy_ofByte_toByte _
  · exact arithPolicy_ofByte_toByte _
  · exact reportMode_ofByte_toByte _
  · simp [rangesLegal, hd.period, hd.offset, hd.outRange, hd.safeValue.1, hd.safeValue.2]
  · unfold reportParamLegal
    split
    · next h => simpa using hd.divide h
    · next h => simpa [← BitVec.toNat_inj] using hd.change h
    · rfl

/-- A DEFINE_LOOP whose payload has passed the length and field checks (R13, R14). -/
theorem reqDefineLoop_parsed {p : List Byte} {i : LoopId} {d : Definition} {bank : Bank} (s : State)
    (hlen : p.length = 28 + 12 * (byteAt p 10).toNat) (hi : loopOfByte (byteAt p 0) = some i)
    (hp : parseDefinition p = some (d, bank)) :
    reqDefineLoop p s = if (s.loop i).state = .empty ∨ (s.loop i).state = .idle then
        accept (s.setLoop i (definedEntry d bank)).refreshAlert []
      else refuse s .state := by
  unfold reqDefineLoop
  rw [if_neg (by omega), hi, hp]

/-! ## Bytes that count for nothing -/

/-- Two payloads of DEFINE_LOOP that differ only where the field check does not look (R174). -/
structure SameFields (p q : List Byte) : Prop where
  length : p.length = q.length
  byte : ∀ j, j ≠ 7 → j ≠ 9 → j ≠ 26 → (∀ k, j ≠ 28 + 12 * k + 3) → byteAt p j = byteAt q j
  flag : ∀ j, (j = 26 ∨ ∃ k, j = 28 + 12 * k + 3) → (byteAt p j != 0) = (byteAt q j != 0)
  bindingIndex : byteAt p 7 = byteAt q 7 ∨ byteAt p 6 = 0x00
  inputBIndex : byteAt p 9 = byteAt q 9 ∨ byteAt p 8 = 0x00 ∨ byteAt p 8 = 0xFF

namespace SameFields

variable {p q : List Byte} (h : SameFields p q)
include h

theorem word {j : Nat} (hj : (∀ k, j ≠ 28 + 12 * k + 3) ∧ ∀ k, j + 1 ≠ 28 + 12 * k + 3)
    (hne : j ≠ 7 ∧ j ≠ 9 ∧ j ≠ 26 ∧ j ≠ 6 ∧ j ≠ 8 ∧ j ≠ 25) : word16At p j = word16At q j := by
  unfold word16At
  rw [h.byte j hne.1 hne.2.1 hne.2.2.1 hj.1, h.byte (j + 1) (by omega) (by omega) (by omega) hj.2]

/-- A byte ahead of the stage entries. -/
theorem headByte {j : Nat} (hj : j < 28) (hne : j ≠ 7 ∧ j ≠ 9 ∧ j ≠ 26) : byteAt p j = byteAt q j :=
  h.byte j hne.1 hne.2.1 hne.2.2 fun k => by omega

/-- A field of two bytes ahead of the stage entries. -/
theorem headWord {j : Nat} (hj : j < 27) (hne : j ≠ 7 ∧ j ≠ 9 ∧ j ≠ 26 ∧ j ≠ 6 ∧ j ≠ 8 ∧ j ≠ 25) :
    word16At p j = word16At q j := h.word ⟨fun k => by omega, fun k => by omega⟩ hne

theorem parseBinding_eq : parseBinding (byteAt p 6) (byteAt p 7) = parseBinding (byteAt q 6) (byteAt q 7) := by
  have h6 := h.headByte (j := 6) (by omega) (by omega)
  rcases h.bindingIndex with h7 | h0
  · rw [h6, h7]
  · rw [← h6, h0]
    rfl

theorem parseInputB_eq : parseInputB (byteAt p 8) (byteAt p 9) = parseInputB (byteAt q 8) (byteAt q 9) := by
  have h8 := h.headByte (j := 8) (by omega) (by omega)
  rcases h.inputBIndex with h9 | h0 | hF
  · rw [h8, h9]
  · rw [← h8, h0]
    rfl
  · rw [← h8, hF]
    rfl

theorem parseStage_eq (k : Nat) : parseStage p (28 + 12 * k) = parseStage q (28 + 12 * k) := by
  have hb : ∀ r, r < 12 → r ≠ 3 → byteAt p (28 + 12 * k + r) = byteAt q (28 + 12 * k + r) := fun r hr h3 =>
    h.byte _ (by omega) (by omega) (by omega) fun k' => by omega
  have hw : ∀ r, 4 ≤ r → r < 11 → word16At p (28 + 12 * k + r) = word16At q (28 + 12 * k + r) := fun r h4 hr =>
    h.word ⟨fun k' => by omega, fun k' => by omega⟩ (by omega)
  have hc : coefsAt p (28 + 12 * k + 4) = coefsAt q (28 + 12 * k + 4) := by
    unfold coefsAt
    rw [hw 4 (by omega) (by omega), Nat.add_assoc _ 4 2, Nat.add_assoc _ 4 4, Nat.add_assoc _ 4 6,
      hw (4 + 2) (by omega) (by omega), hw (4 + 4) (by omega) (by omega), hw (4 + 6) (by omega) (by omega)]
  have h0 : byteAt p (28 + 12 * k) = byteAt q (28 + 12 * k) := hb 0 (by omega) (by omega)
  have hf := h.flag (28 + 12 * k + 3) (.inr ⟨k, rfl⟩)
  unfold parseStage
  simp only [h0, hb 1 (by omega) (by omega), hb 2 (by omega) (by omega), hc, hf]

theorem parseStages_eq (n k : Nat) : parseStages p n (28 + 12 * k) = parseStages q n (28 + 12 * k) := by
  induction n generalizing k with
  | zero => rfl
  | succ n ih => rw [parseStages, parseStages, h.parseStage_eq k, show 28 + 12 * k + 12 = 28 + 12 * (k + 1) by omega, ih]

theorem parseDefinition_eq : parseDefinition p = parseDefinition q := by
  have hst : ∀ n, parseStages p n 28 = parseStages q n 28 := fun n => h.parseStages_eq n 0
  unfold parseDefinition
  simp only [h.headByte (j := 1) (by omega) (by omega), h.headByte (j := 10) (by omega) (by omega),
    h.headByte (j := 17) (by omega) (by omega), h.headByte (j := 18) (by omega) (by omega),
    h.headByte (j := 21) (by omega) (by omega), h.headByte (j := 22) (by omega) (by omega),
    h.headByte (j := 23) (by omega) (by omega), h.headByte (j := 27) (by omega) (by omega),
    h.headWord (j := 2) (by omega) (by omega), h.headWord (j := 4) (by omega) (by omega),
    h.headWord (j := 11) (by omega) (by omega), h.headWord (j := 13) (by omega) (by omega),
    h.headWord (j := 15) (by omega) (by omega), h.headWord (j := 19) (by omega) (by omega),
    h.headWord (j := 24) (by omega) (by omega), h.flag 26 (.inl rfl), h.parseBinding_eq, h.parseInputB_eq, hst]

theorem reqDefineLoop_eq (s : State) : reqDefineLoop p s = reqDefineLoop q s := by
  unfold reqDefineLoop
  rw [h.length, h.headByte (j := 0) (by omega) (by omega), h.headByte (j := 10) (by omega) (by omega),
    h.parseDefinition_eq]

end SameFields

/-! ## ALERT_N -/

/-- ALERT_N set anew is at the level the loops' alarm records give it (R122). -/
theorem refreshAlert_eq (s : State) : s.refreshAlert = { s with alertN := alertLevel s.loops } := by
  have h : (allLoops.any fun i => (s.loop i).alarms.alerting) = true ↔
      ∃ i : LoopId, s.loops[i].alarms.latched &&& s.loops[i].alarms.mask ≠ 0 := by
    rw [List.any_eq_true]
    constructor
    · rintro ⟨i, -, hi⟩
      exact ⟨i, by simpa [AlarmRecord.alerting, State.loop] using hi⟩
    · rintro ⟨i, hi⟩
      exact ⟨i, mem_allLoops i, by simpa [AlarmRecord.alerting, State.loop] using hi⟩
  unfold State.refreshAlert alertLevel
  rw [if_congr h rfl rfl]

theorem reset_eq_resetLoop : LoopEntry.reset = resetLoop := rfl

theorem definedEntry_eq (d : Definition) (bank : Bank) : definedEntry d bank = { resetLoop with
    definition := some d, activeBank := bank, pendingBank := bank, state := .idle
    alarms := { latched := 0, mask := d.alarmMask, owed := 0 } } := rfl

theorem bankOf_eq_ofFn (cs : List Coefs) : bankOf cs = Vector.ofFn fun k : Fin 4 => cs.getD k ⟨0, 0, 0, 0⟩ := by
  ext1 k hk
  rw [Vector.getElem_ofFn]
  exact bankOf_get cs ⟨k, hk⟩

end Sys2Proof.Machine

open Sys2Proof Sys2Proof.Machine

/-- Settles O14: a payload built from the layout reads as the definition it was built from, and the field check does
not look at the bytes that count for nothing. -/
theorem defineLoopStoresEveryField : Obligations.DefineLoopStoresEveryField := by
  constructor
  · intro s tag p q hs hlen hbytes
    have hsame : SameFields p q := by
      refine ⟨hlen, fun j h7 h9 h26 h31 => ?_, fun j hj => ?_, ?_, ?_⟩
      · rcases hbytes j with h | ⟨-, -, h | ⟨k, h⟩⟩ | ⟨h, -⟩ | ⟨h, -⟩
        · exact h
        · exact absurd h h26
        · exact absurd h (h31 k)
        · exact absurd h h7
        · exact absurd h h9
      · rcases hbytes j with h | ⟨hp, hq, -⟩ | ⟨h, -⟩ | ⟨h, -⟩
        · rw [h]
        · rw [bne_iff_ne.2 hp, bne_iff_ne.2 hq]
        · omega
        · omega
      · rcases hbytes 7 with h | ⟨-, -, h | ⟨k, h⟩⟩ | ⟨-, h⟩ | ⟨h, -⟩
        · exact .inl h
        · omega
        · omega
        · exact .inr h
        · omega
      · rcases hbytes 9 with h | ⟨-, -, h | ⟨k, h⟩⟩ | ⟨h, -⟩ | ⟨-, h⟩
        · exact .inl h
        · omega
        · omega
        · omega
        · exact .inr h
    rw [exec_defineLoop hs, exec_defineLoop hs, hsame.reqDefineLoop_eq]
  · intro s tag i d cs hs hd hlen hcs
    dsimp only
    have hk := hd.stageCount.2
    have hreq := reqDefineLoop_parsed (p := defineLoopBytes i d cs) s
      (by rw [(byteAt_defineLoop_loop_count i d cs).2, natByte_toNat (by omega), length_defineLoopBytes i d hlen])
      (by rw [(byteAt_defineLoop_loop_count i d cs).1, loopOfByte_natByte])
      (parseDefinition_eq_some.2 ⟨_, reads_defineLoopBytes i hd hlen hcs⟩)
    constructor
    · intro hstate
      rw [exec_defineLoop hs, hreq, if_pos hstate, refreshAlert_eq, definedEntry_eq, bankOf_eq_ofFn]
      rfl
    · intro he hi
      rw [exec_defineLoop hs, hreq, if_neg (not_or.2 ⟨he, hi⟩)]
      rfl
end

section
/-! SUPPORT. HOLD_LOOP and CLEAR_LOOP: the instances of the named loops ended together, and the changes and reports
made loop by loop gathered into one change followed by the reports (R10, R15, R24, R111 to R113). -/

namespace Sys2Proof.Machine

/-! ## The instances of several loops ended -/

/-- The unit with every instance of a loop of `p` ended: those that wait leave the queue and the stack, a running one is
abandoned in its stage and dropped at its boundary (R10, R111 to R113). -/
def CompUnit.endAll (u : CompUnit) (p : LoopId → Bool) : CompUnit :=
  { u with
    due := u.due.filter fun x => !p x.loop
    stack := u.stack.filter fun x => !p x.loop
    running := u.running.bind fun x =>
      if p x.loop = false then some x
      else if u.state = .stage then some { x with abandoned := true }
      else none }

theorem endAll_none (u : CompUnit) : u.endAll (fun _ => false) = u := by
  simp [CompUnit.endAll]

/-- The loops of `p` and the loop `i`. -/
def orLoop (p : LoopId → Bool) (i : LoopId) : LoopId → Bool := fun j => p j || j == i

theorem filter_orLoop (p : LoopId → Bool) (i : LoopId) (l : List Instance) :
    l.filter (fun x => !orLoop p i x.loop) = without i (l.filter fun x => !p x.loop) := by
  unfold without orLoop
  rw [List.filter_filter]
  exact List.filter_congr fun x _ => by rw [Bool.not_or, Bool.and_comm]; rfl

theorem without_eq_self {i : LoopId} {l : List Instance} (h : ¬∃ x ∈ l, x.loop = i) : without i l = l :=
  List.filter_eq_self.2 fun x hx => bne_iff_ne.2 fun e => h ⟨x, hx, e⟩

/-- A loop without a waiting instance adds nothing to end in the list. -/
theorem filter_orLoop_of_none {p : LoopId → Bool} {i : LoopId} {l : List Instance} (h : ¬∃ x ∈ l, x.loop = i) :
    l.filter (fun x => !orLoop p i x.loop) = l.filter fun x => !p x.loop := by
  rw [filter_orLoop]
  exact without_eq_self fun ⟨x, hx, e⟩ => h ⟨x, (List.mem_filter.1 hx).1, e⟩

theorem orLoop_ne {p : LoopId → Bool} {i j : LoopId} (h : j ≠ i) : orLoop p i j = p j := by
  simp [orLoop, h]

theorem orLoop_self (p : LoopId → Bool) (i : LoopId) : orLoop p i i = true := by simp [orLoop]

/-- Where a loop has no running instance that is not abandoned, its end changes nothing of the running slot (R113). -/
theorem Placed.running_orLoop {st : LoopId → InstanceStatus} {u : CompUnit} (h : Placed st u) {i : LoopId}
    (hi : st i ≠ .running) {p : LoopId → Bool} (hp : p i = false) :
    (u.endAll (orLoop p i)).running = (u.endAll p).running := by
  cases hr : u.running with
  | none => simp [CompUnit.endAll, hr]
  | some x =>
    by_cases hx : x.loop = i
    · subst hx
      have ha : x.abandoned = true := by
        by_contra hn
        exact h.not_running hi ⟨x, hr, by simpa using hn, rfl⟩
      have hs : u.state = .stage := by
        cases hs : u.state with
        | stage => rfl
        | idle => rw [(h.idleEmpty hs).2.1] at hr; cases hr
        | choice => rw [h.choiceLive hs x hr] at ha; cases ha
      have hx : { x with abandoned := true } = x := by rw [← ha]
      simp [CompUnit.endAll, hr, hp, orLoop_self, hs, hx]
    · simp [CompUnit.endAll, hr, orLoop_ne hx]

/-- With the instances of the loops of `p` ended, ending the outstanding instance of one more loop ends its too. -/
theorem Placed.endAll_endInstance {st : LoopId → InstanceStatus} {u : CompUnit} (h : Placed st u) {i : LoopId}
    {p : LoopId → Bool} (hp : p i = false) : (u.endAll p).endInstance i (st i) = u.endAll (orLoop p i) := by
  have hdue : st i ≠ .due → (u.endAll (orLoop p i)).due = (u.endAll p).due := fun hi =>
    filter_orLoop_of_none (h.not_due hi)
  have hstack : st i ≠ .suspended → (u.endAll (orLoop p i)).stack = (u.endAll p).stack := fun hi =>
    filter_orLoop_of_none (h.not_stack hi)
  have hext : ∀ v w : CompUnit, v.state = w.state → v.due = w.due → v.running = w.running → v.stack = w.stack → v = w := by
    rintro ⟨_, _, _, _⟩ ⟨_, _, _, _⟩ rfl rfl rfl rfl
    rfl
  cases hi : st i with
  | noInstance =>
    exact hext _ _ rfl (hdue (by rw [hi]; nofun)).symm (h.running_orLoop (by rw [hi]; nofun) hp).symm
      (hstack (by rw [hi]; nofun)).symm
  | due =>
    exact hext _ _ rfl (filter_orLoop p i u.due).symm (h.running_orLoop (by rw [hi]; nofun) hp).symm
      (hstack (by rw [hi]; nofun)).symm
  | suspended =>
    exact hext _ _ rfl (hdue (by rw [hi]; nofun)).symm (h.running_orLoop (by rw [hi]; nofun) hp).symm
      (filter_orLoop p i u.stack).symm
  | running =>
    obtain ⟨x, hx, -, rfl⟩ := (h.running i).1 hi
    have hrun : (u.endAll p).running = some x := by simp [CompUnit.endAll, hx, hp]
    have hend : (u.endAll p).endInstance x.loop .running = { u.endAll p with
        running := if u.state = .stage then some { x with abandoned := true } else none } := by
      simp only [CompUnit.endInstance, CompUnit.abandon, hrun, if_true]
      rfl
    rw [hend]
    refine hext _ _ rfl (hdue (by rw [hi]; nofun)).symm ?_ (hstack (by rw [hi]; nofun)).symm
    simp [CompUnit.endAll, hx, orLoop_self]

/-- The outstanding instances of the named loops, ended one after another, are ended together (R10, R15). -/
theorem Placed.foldl_endInstance {st : LoopId → InstanceStatus} {u : CompUnit} (h : Placed st u) (m : LoopMask) :
    allLoops.foldl (fun v i => if names m i then v.endInstance i (st i) else v) u = u.endAll (names m) := by
  have hfold : ∀ (l : List LoopId) (p : LoopId → Bool), l.Nodup → (∀ i ∈ l, p i = false) →
      l.foldl (fun v i => if names m i then v.endInstance i (st i) else v) (u.endAll p)
        = u.endAll fun j => p j || (decide (j ∈ l) && names m j) := by
    intro l
    induction l with
    | nil => intro p _ _; simp
    | cons i rest ih =>
      intro p hl hp
      obtain ⟨hi, hrest⟩ := List.nodup_cons.1 hl
      have hpi := hp i List.mem_cons_self
      have hpr : ∀ j ∈ rest, p j = false := fun j hj => hp j (List.mem_cons_of_mem i hj)
      rw [List.foldl_cons]
      split
      · next hn =>
        rw [h.endAll_endInstance hpi, ih (orLoop p i) hrest fun j hj => by
          rw [orLoop_ne fun e : j = i => hi (e ▸ hj)]; exact hpr j hj]
        refine congrArg u.endAll (funext fun j => ?_)
        by_cases hj : j = i
        · subst hj
          simp [orLoop_self, hn]
        · simp [orLoop_ne hj, hj]
      · next hn =>
        rw [ih p hrest hpr]
        refine congrArg u.endAll (funext fun j => ?_)
        by_cases hj : j = i
        · subst hj
          simp [hn]
        · simp [hj]
  have hall := hfold allLoops (fun _ => false) allLoops_nodup fun _ _ => rfl
  rw [endAll_none] at hall
  rw [hall]
  exact congrArg u.endAll (funext fun j => by simp [mem_allLoops])

/-! ## Changes and reports, loop by loop -/

/-- A report offered where there is one (R24, R135). -/
def State.tell (s : State) (r : Option OutputReport) : State :=
  match r with
  | none => s
  | some r => s.offerOutput r

theorem setLoop_self (s : State) (i : LoopId) : s.setLoop i (s.loop i) = s := by
  simp [State.setLoop, State.loop]

theorem setLoop_setLoop (s : State) (i : LoopId) (l l' : LoopEntry) : (s.setLoop i l).setLoop i l' = s.setLoop i l' := by
  simp [State.setLoop]

theorem setLoop_comm (s : State) {i j : LoopId} (h : i ≠ j) (l l' : LoopEntry) :
    (s.setLoop i l).setLoop j l' = (s.setLoop j l').setLoop i l := by
  simp only [State.setLoop]
  rw [Vector.set_comm]
  exact fun e => h (Fin.ext e)

/-- A loop entry replaced, with a computation unit of its own. -/
def State.place (s : State) (i : LoopId) (l : LoopEntry) (f : CompUnit → CompUnit) : State :=
  { s.setLoop i l with cu := f s.cu }

/-- An OUTPUT offer and a change of another loop's entry and of the computation unit commute (R135). -/
theorem place_offerOutput (s : State) (r : OutputReport) {i : LoopId} (h : r.loop ≠ i) (l : LoopEntry)
    (f : CompUnit → CompUnit) : (s.offerOutput r).place i l f = (s.place i l f).offerOutput r := by
  have hloop : (s.setLoop i l).loop r.loop = s.loop r.loop := loop_setLoop_ne s l h
  unfold State.offerOutput
  split
  · next u hu =>
    have hu' : (s.place i l f).rep.offerOutput r = (u, true) := hu
    rw [hu']
    rfl
  · next u hu =>
    have hu' : (s.place i l f).rep.offerOutput r = (u, false) := hu
    rw [hu']
    have hcomm := setLoop_comm { s with rep := u } h { s.loop r.loop with stats := (s.loop r.loop).stats.incDropped } l
    simp only [State.place, State.modLoop] at hcomm ⊢
    change State.mk _ _ _ _ _ _ _ _ _ _ _ = _
    have hl : ({ s.setLoop i l with rep := u, cu := f s.cu } : State).loop r.loop = s.loop r.loop := hloop
    rw [hl]
    exact congrArg (fun t : State => { t with cu := f s.cu }) hcomm

theorem place_tell (s : State) {r : Option OutputReport} {i : LoopId} (h : ∀ x, r = some x → x.loop ≠ i) (l : LoopEntry)
    (f : CompUnit → CompUnit) : (s.tell r).place i l f = (s.place i l f).tell r := by
  cases r with
  | none => rfl
  | some r => exact place_offerOutput s r (h r rfl) l f

theorem tell_time (s : State) (r : Option OutputReport) : (s.tell r).time = s.time := by
  cases r with
  | none => rfl
  | some r =>
    obtain ⟨u, ls, h⟩ := offerOutput_only s r
    change (s.offerOutput r).time = s.time
    rw [h]

theorem tell_loop_ne (s : State) {r : Option OutputReport} {i : LoopId} (h : ∀ x, r = some x → x.loop ≠ i) :
    (s.tell r).loop i = s.loop i := by
  cases r with
  | none => rfl
  | some r =>
    rcases offerOutput_loop s r i with he | ⟨he, -⟩
    · exact he
    · exact absurd he.symm (h r rfl)

section

variable {s : State} {told : LoopId → LoopEntry} {report : LoopId → Option OutputReport}
  {ended : LoopId → CompUnit → CompUnit} (hrep : ∀ i r, report i = some r → r.loop = i)
include hrep

/-- A report of one loop and the changes of others, made loop by loop, commute. -/
theorem foldl_place_tell {l : List LoopId} {i : LoopId} (hi : i ∉ l) (t : State) :
    l.foldl (fun t j => t.place j (told j) (ended j)) (t.tell (report i))
      = (l.foldl (fun t j => t.place j (told j) (ended j)) t).tell (report i) := by
  induction l generalizing t with
  | nil => rfl
  | cons j rest ih =>
    rw [List.mem_cons, not_or] at hi
    rw [List.foldl_cons, List.foldl_cons, place_tell t (fun x hx => by rw [hrep i x hx]; exact hi.1), ih hi.2]

/-- Loops changed one after another, each with its report behind its change, are changed first and reported then, in
the same order (R15, R24). -/
theorem foldl_place_then_tell {f : LoopId → State → State}
    (hf : ∀ i t, t.loop i = s.loop i → t.time = s.time → f i t = (t.place i (told i) (ended i)).tell (report i))
    (l : List LoopId) (hl : l.Nodup) (t : State) (hloop : ∀ i ∈ l, t.loop i = s.loop i) (htime : t.time = s.time) :
    l.foldl (fun t i => f i t) t
      = (l.filterMap report).foldl State.offerOutput (l.foldl (fun t i => t.place i (told i) (ended i)) t) := by
  induction l generalizing t with
  | nil => rfl
  | cons i rest ih =>
    obtain ⟨hi, hrest⟩ := List.nodup_cons.1 hl
    rw [List.foldl_cons, List.foldl_cons, hf i t (hloop i List.mem_cons_self) htime]
    have hne : ∀ j ∈ rest, i ≠ j := fun j hj e => hi (e ▸ hj)
    rw [ih hrest, foldl_place_tell hrep hi]
    · cases hr : report i with
      | none => rw [List.filterMap_cons_none hr]; rfl
      | some r => rw [List.filterMap_cons_some hr]; rfl
    · intro j hj
      rw [tell_loop_ne _ fun x hx => by rw [hrep i x hx]; exact hne j hj]
      exact (loop_setLoop_ne t _ (hne j hj).symm).trans (hloop j (List.mem_cons_of_mem i hj))
    · rw [tell_time]
      exact htime

end

/-- The computation unit may be set before or after changes of loop entries. -/
theorem foldl_modLoop_cu (told : LoopId → LoopEntry) (l : List LoopId) (c : CompUnit) (t : State) :
    l.foldl (fun t i => t.modLoop i fun _ => told i) { t with cu := c }
      = { l.foldl (fun t i => t.modLoop i fun _ => told i) t with cu := c } := by
  induction l generalizing t with
  | nil => rfl
  | cons i rest ih => exact ih (t.modLoop i fun _ => told i)

/-- The changes of loop entries made one after another are one loop table, and those of the unit one after another. -/
theorem foldl_place (s : State) (told : LoopId → LoopEntry) (ended : LoopId → CompUnit → CompUnit) :
    allLoops.foldl (fun t i => t.place i (told i) (ended i)) s
      = { s with loops := Vector.ofFn told, cu := allLoops.foldl (fun u i => ended i u) s.cu } := by
  have hsplit : ∀ (l : List LoopId) (t : State), l.foldl (fun t i => t.place i (told i) (ended i)) t
      = { l.foldl (fun t i => t.modLoop i fun _ => told i) t with cu := l.foldl (fun u i => ended i u) t.cu } := by
    intro l
    induction l with
    | nil => exact fun _ => rfl
    | cons i rest ih =>
      intro t
      rw [List.foldl_cons, ih]
      exact congrArg (fun u : State => { u with cu := rest.foldl (fun u i => ended i u) (ended i t.cu) })
        (foldl_modLoop_cu told rest (ended i t.cu) (t.modLoop i fun _ => told i))
  have heach := eachLoop_modLoop (fun i _ => told i) s
  unfold State.eachLoop at heach
  rw [hsplit, heach]

theorem allLoops_eq_finRange : allLoops = List.finRange 16 := by decide

/-- What is done to the named loops: each entry replaced, its instance ended, and its report offered. -/
theorem eachNamed_place_tell {s : State} (h : Placed s.statuses s.cu) {m : LoopMask} {f : LoopId → State → State}
    {told : LoopId → LoopEntry} {report : LoopId → Option OutputReport} (hrep : ∀ i r, report i = some r → r.loop = i)
    (hnamed : ∀ i t, names m i = true → t.loop i = s.loop i → t.time = s.time →
      f i t = (t.place i (told i) fun u => u.endInstance i (s.loop i).status).tell (report i))
    (hother : ∀ i, names m i ≠ true → told i = s.loop i ∧ report i = none) :
    s.eachNamed m f = ((List.finRange 16).filterMap report).foldl State.offerOutput
      { s with loops := Vector.ofFn told, cu := s.cu.endAll (names m) } := by
  have hfold := foldl_place_then_tell (s := s) (told := told) (report := report)
    (ended := fun i u => if names m i then u.endInstance i (s.loop i).status else u) hrep
    (f := fun i t => if names m i then f i t else t)
    (fun i t hl ht => by
      by_cases hi : names m i = true
      · simpa only [hi, if_true] using hnamed i t hi hl ht
      · obtain ⟨he, hr⟩ := hother i hi
        simp only [hi, if_false, Bool.false_eq_true, hr, he, ← hl, State.place, setLoop_self]
        rfl)
    allLoops allLoops_nodup s (fun _ _ => rfl) rfl
  have hcu := h.foldl_endInstance m
  unfold State.statuses at hcu
  rw [foldl_place, hcu, allLoops_eq_finRange] at hfold
  exact hfold

/-- The offers leave the computation unit, so it may be set before or after them. -/
theorem foldl_offerOutput_cu (rs : List OutputReport) (s : State) (c : CompUnit) :
    rs.foldl State.offerOutput { s with cu := c } = { rs.foldl State.offerOutput s with cu := c } := by
  have hone : ∀ (t : State) (r : OutputReport), State.offerOutput { t with cu := c } r = { t.offerOutput r with cu := c } := by
    intro t r
    unfold State.offerOutput
    dsimp only
    split <;> rfl
  induction rs generalizing s with
  | nil => rfl
  | cons r rest ih => rw [List.foldl_cons, List.foldl_cons, hone, ih]

end Sys2Proof.Machine
end

section
/-! SUPPORT. HOLD_LOOP and CLEAR_LOOP: what they do to one loop, and that both settle their statements (R17, R19,
R24). -/

namespace Sys2Proof.Machine

/-! ## The SAFE-marked report of one loop -/

theorem presented_eq_shown {l : LoopEntry} {d : Definition} (h : l.definition = some d) : l.presented = l.shown d := by
  unfold LoopEntry.presented LoopEntry.shown
  rw [h]
  cases l.safeSub <;> rfl

theorem safeOutput_silent {s : State} {i : LoopId} {d : Definition} (h : (s.loop i).definition = some d)
    (hmode : d.reportMode = .silent) : s.safeOutput i = s := by
  unfold State.safeOutput
  rw [h]
  exact if_pos hmode

theorem safeOutput_reported {s : State} {i : LoopId} {d : Definition} (h : (s.loop i).definition = some d)
    (hmode : d.reportMode ≠ .silent) : s.safeOutput i
      = (s.setLoop i { s.loop i with lastReported := some ((s.loop i).shown d) }).offerOutput
        ((s.loop i).safeReport i d s.time.tick) := by
  unfold State.safeOutput
  rw [h]
  dsimp only
  rw [if_neg hmode, presented_eq_shown h]
  rfl

/-! ## A loop's entry to HELD(HOST) -/

/-- The entry of a loop that HOLD_LOOP holds (R17). -/
def LoopEntry.holdByHost (l : LoopEntry) : LoopEntry :=
  { l with state := .held .host, status := .noInstance, nextRelease := none, safeSub := l.heldSafeSub }

/-- The entries HOLD_LOOP leaves: a named loop not yet HELD(HOST) is held, and every other one stays (R15, R17). -/
def State.heldByHost (s : State) (m : LoopMask) (i : LoopId) : LoopEntry :=
  if names m i = true ∧ (s.loop i).state ≠ .held .host then (s.loop i).holdByHost else s.loop i

/-- The report of a loop whose entry becomes `after`, where its presented primary output differs and its report mode is
not NONE (R24). -/
def State.holdReport (s : State) (after : LoopId → LoopEntry) (i : LoopId) : Option OutputReport :=
  (after i).definition.bind fun d =>
    if (after i).shown d ≠ (s.loop i).shown d ∧ d.reportMode ≠ .silent then
      some ((after i).safeReport i d s.time.tick)
    else none

/-- The entry of a loop that has reported: its last-reported value is the primary the report carries (R134). -/
def LoopEntry.reported (l : LoopEntry) (r : Option OutputReport) : LoopEntry :=
  match r with
  | some r => { l with lastReported := some r.primary }
  | none => l

theorem holdLoops_eq (s : State) (after : LoopId → LoopEntry) :
    s.holdLoops after = ((List.finRange 16).filterMap (s.holdReport after)).foldl State.offerOutput
      { s with loops := Vector.ofFn fun i => (after i).reported (s.holdReport after i) } := rfl

theorem holdReport_loop {s : State} {after : LoopId → LoopEntry} {i : LoopId} {r : OutputReport}
    (h : s.holdReport after i = some r) : r.loop = i := by
  obtain ⟨d, -, hr⟩ := Option.bind_eq_some_iff.1 h
  split at hr
  · cases hr
    rfl
  · cases hr

theorem holdReport_unchanged {s : State} {after : LoopId → LoopEntry} {i : LoopId} (h : after i = s.loop i) :
    s.holdReport after i = none := by
  unfold State.holdReport
  rw [h]
  cases (s.loop i).definition with
  | none => rfl
  | some d => simp

theorem place_setLoop (s : State) (i : LoopId) (l l' : LoopEntry) (f : CompUnit → CompUnit) :
    (s.place i l f).setLoop i l' = s.place i l' f :=
  congrArg (fun t : State => { t with cu := f s.cu }) (setLoop_setLoop s i l l')

theorem place_loop (s : State) (i : LoopId) (l : LoopEntry) (f : CompUnit → CompUnit) : (s.place i l f).loop i = l :=
  loop_setLoop_self s i l

/-- A loop left as it is without an instance to end. -/
theorem place_unchanged {t : State} {i : LoopId} {l : LoopEntry} (h : t.loop i = l) (hn : l.status = .noInstance) :
    t.place i l (fun u => u.endInstance i l.status) = t := by
  rw [hn, ← h, State.place, setLoop_self]
  rfl

theorem endInstance_eq_place (t : State) (i : LoopId) : t.endInstance i
    = t.place i { t.loop i with status := .noInstance } fun u => u.endInstance i (t.loop i).status := rfl

/-- Holding a loop is its entry replaced and its instance ended, and the report of a changed presented primary output
(R17, R24). -/
theorem holdLoop_eq_place {t : State} {i : LoopId} {l : LoopEntry} (hloop : t.loop i = l)
    (hstate : l.state ≠ .held .host) : t.holdLoop i = if l.holdByHost.presented ≠ l.presented
      then (t.place i l.holdByHost fun u => u.endInstance i l.status).safeOutput i
      else t.place i l.holdByHost fun u => u.endInstance i l.status := by
  unfold State.holdLoop
  rw [endInstance_eq_place, hloop]
  split
  · next h => exact absurd h hstate
  · simp only [State.enterHeld, State.modLoop, place_loop, place_setLoop]
    rfl

/-- Holding a loop is its entry replaced, its instance ended, and its report offered (R17, R24). -/
theorem holdLoop_eq_place_tell {s t : State} {i : LoopId} {after : LoopId → LoopEntry} {d : Definition}
    (hloop : t.loop i = s.loop i) (htime : t.time = s.time) (hd : (s.loop i).definition = some d)
    (hstate : (s.loop i).state ≠ .held .host) (hafter : after i = (s.loop i).holdByHost) :
    t.holdLoop i = (t.place i ((after i).reported (s.holdReport after i))
      fun u => u.endInstance i (s.loop i).status).tell (s.holdReport after i) := by
  have hheld : (s.loop i).holdByHost.definition = some d := hd
  have hplaced : ∀ f, ((t.place i (s.loop i).holdByHost f).loop i).definition = some d := fun f => by
    rw [place_loop]
    exact hd
  rw [holdLoop_eq_place hloop hstate, presented_eq_shown hd, presented_eq_shown hheld]
  unfold State.holdReport
  rw [hafter, hheld, Option.bind_some]
  by_cases hshown : (s.loop i).holdByHost.shown d ≠ (s.loop i).shown d
  · rw [if_pos hshown]
    by_cases hmode : d.reportMode = .silent
    · rw [safeOutput_silent (hplaced _) hmode, if_neg fun h => h.2 hmode]
      rfl
    · rw [safeOutput_reported (hplaced _) hmode, if_pos ⟨hshown, hmode⟩, place_loop, place_setLoop]
      change State.offerOutput _ (LoopEntry.safeReport _ i d t.time.tick) = _
      rw [htime]
      rfl
  · rw [if_neg hshown, if_neg fun h => hshown h.1]
    rfl

/-! ## A loop cleared -/

/-- Clearing a loop is its entry replaced and its instance ended, with no report (R19). -/
theorem clearLoop_eq_place {t : State} {i : LoopId} {l : LoopEntry} (hloop : t.loop i = l) (hstate : l.state ≠ .empty) :
    t.clearLoop i = t.place i resetLoop fun u => u.endInstance i l.status := by
  unfold State.clearLoop
  rw [endInstance_eq_place, hloop]
  split
  · next h => exact absurd h hstate
  · rw [place_setLoop, reset_eq_resetLoop]

end Sys2Proof.Machine

open Sys2Proof Sys2Proof.Machine

/-- Settles O18: the named loops are cleared one after another, which is one change of the loop table and one of the
computation unit. -/
theorem clearLoopEmptiesTheNamedLoops : Obligations.ClearLoopEmptiesTheNamedLoops := by
  intro s tag m hs hinv hm
  dsimp only
  have heach : s.eachNamed m (fun i t => t.clearLoop i) = { s with
      loops := Vector.ofFn fun i => if names m i = true ∧ (s.loop i).state ≠ .empty then resetLoop else s.loop i
      cu := s.cu.endAll (names m) } := by
    refine (eachNamed_place_tell hinv.unit.placed (report := fun _ => none) nofun (fun i t hi hl _ => ?_) fun i hi => ?_).trans
      (by rw [List.filterMap_none]; rfl)
    · by_cases he : (s.loop i).state = .empty
      · rw [if_neg fun h => h.2 he]
        have hclear : t.clearLoop i = t := by simp [State.clearLoop, hl, he]
        rw [hclear]
        exact (place_unchanged hl (hinv.status_none (by rw [he]; nofun))).symm
      · rw [if_pos ⟨hi, he⟩]
        exact clearLoop_eq_place hl he
    · exact ⟨if_neg fun h => hi h.1, rfl⟩
  rw [exec_clearLoop hs, reqClearLoop, maskRequest_taken hm fun _ _ => rfl, heach, acceptMask_eq, refreshAlert_eq]
  rfl

/-- Settles O17: the named loops are held one after another, which is one change of the loop table and of the
computation unit, and the reports in order behind it. -/
theorem holdLoopHoldsTheNamedLoops : Obligations.HoldLoopHoldsTheNamedLoops := by
  constructor
  · intro s tag m hs hinv hm hstate
    dsimp only
    have hpass : ∀ i, names m i = true → holdCheck (s.loop i) = none := fun i hi => by
      rcases hstate i hi with h | h | h | h <;> simp [holdCheck, h]
    have hsame : ∀ i, ¬(names m i = true ∧ (s.loop i).state ≠ .held .host) → s.heldByHost m i = s.loop i :=
      fun i h => if_neg h
    have heach : s.eachNamed m (fun i t => t.holdLoop i)
        = { s.holdLoops (s.heldByHost m) with cu := s.cu.endAll (names m) } := by
      rw [holdLoops_eq, ← foldl_offerOutput_cu]
      refine eachNamed_place_tell hinv.unit.placed (fun i r => holdReport_loop) (fun i t hi hl ht => ?_) fun i hi => ?_
      · by_cases he : (s.loop i).state = .held .host
        · have ha := hsame i fun h => h.2 he
          have hhold : t.holdLoop i = t := by simp [State.holdLoop, hl, he]
          rw [hhold, holdReport_unchanged ha, ha]
          exact (place_unchanged hl (hinv.status_none (by rw [he]; nofun))).symm
        · have hdefined : (s.loop i).definition ≠ none := fun h => by
            have hempty := (hinv.mode.emptyIffUndefined i).2 h
            rcases hstate i hi with h | h | h | h <;> rw [hempty] at h <;> cases h
          obtain ⟨d, hd⟩ := Option.ne_none_iff_exists'.1 hdefined
          exact holdLoop_eq_place_tell hl ht hd he (if_pos ⟨hi, he⟩)
      · have ha := hsame i fun h => hi h.1
        rw [holdReport_unchanged ha, ha]
        exact ⟨rfl, rfl⟩
    rw [exec_holdLoop hs, reqHoldLoop, maskRequest_taken hm hpass, heach, acceptMask_eq]
    rfl
  · intro s i d hd
    refine ⟨safeOutput_silent hd, fun hmode => ?_⟩
    exact safeOutput_reported hd hmode
end

section
/-! SUPPORT. READ_LOOP: the answer cut into its parts, and where each stands (R21, 10.3). -/

namespace Sys2Proof.Machine

/-! ## Parts of a payload -/

theorem extract_append_32 (w : BitVec 32) :
    (w.extractLsb' 24 8 ++ w.extractLsb' 16 8) ++ (w.extractLsb' 8 8 ++ w.extractLsb' 0 8) = w := by
  ext i hi
  simp only [BitVec.getElem_append, BitVec.getElem_extractLsb']
  split
  · next h =>
    split
    · next h => simp [BitVec.getLsbD_eq_getElem hi]
    · next h =>
      rw [show 8 + (i - 8) = i by omega]
      exact BitVec.getLsbD_eq_getElem hi
  · next h =>
    split
    · next h' =>
      rw [show 16 + (i - 16) = i by omega]
      exact BitVec.getLsbD_eq_getElem hi
    · next h' =>
      rw [show 24 + (i - 16 - 8) = i by omega]
      exact BitVec.getLsbD_eq_getElem hi

/-- What stands between two parts of a payload. -/
theorem take_drop_middle {pre mid post : List Byte} {a n : Nat} (ha : pre.length = a) (hn : mid.length = n) :
    ((pre ++ (mid ++ post)).drop a).take n = mid := by
  rw [← ha, List.drop_left, ← hn, List.take_left]

/-- A row of parts of one length: what stands at the place of one of them. -/
theorem take_drop_row {row : List (List Byte)} {n k : Nat} {part : List Byte} (hlen : ∀ x ∈ row, x.length = n)
    (hk : row[k]? = some part) (post : List Byte) : ((row.flatten ++ post).drop (n * k)).take n = part := by
  induction row generalizing k with
  | nil => simp at hk
  | cons x rest ih =>
    have hx := hlen x List.mem_cons_self
    cases k with
    | zero =>
      rw [List.getElem?_cons_zero, Option.some.injEq] at hk
      subst hk
      rw [List.flatten_cons, List.append_assoc, Nat.mul_zero, List.drop_zero, ← hx, List.take_left]
    | succ k =>
      rw [List.getElem?_cons_succ] at hk
      rw [← ih (fun y hy => hlen y (List.mem_cons_of_mem x hy)) hk, List.flatten_cons, List.append_assoc,
        Nat.mul_succ, Nat.add_comm, ← List.drop_drop, ← hx, List.drop_left]

/-! ## The parts of the answer -/

/-- The result byte and the 17 bytes before the definition (10.3). -/
def LoopEntry.readHead (l : LoopEntry) : List Byte :=
  [0x00, l.state.toByte, l.state.holdByte, l.status.toByte, boolByte l.nextRelease.isSome]
    ++ bytes32 (l.nextRelease.getD 0) ++ [l.missCount, boolByte l.outputValid, boolByte l.safeSub]
    ++ bytes16 l.primary ++ bytes16 l.secondary ++ bytes16 l.presented

/-- The descriptors of the four stages (10.3). -/
def LoopEntry.readDescs (l : LoopEntry) : List (List Byte) :=
  [stageDescBytes (l.stageDesc? 0), stageDescBytes (l.stageDesc? 1), stageDescBytes (l.stageDesc? 2),
    stageDescBytes (l.stageDesc? 3)]

/-- The memories of the four stages (10.3). -/
def LoopEntry.readMems (l : LoopEntry) : List (List Byte) := [l.memBytes 0, l.memBytes 1, l.memBytes 2, l.memBytes 3]

/-- The 19 bytes behind the stage memories (10.3). -/
def LoopEntry.readTail (l : LoopEntry) : List Byte :=
  [boolByte l.commitPending, boolByte l.lastReported.isSome] ++ bytes16 (l.lastReported.getD 0)
    ++ [l.divideCounter] ++ l.stats.toBytes

theorem readLoop_parts (l : LoopEntry) : (0x00 : Byte) :: l.toBytes
    = l.readHead ++ (l.definitionBytes ++ (l.readDescs.flatten ++ (l.readMems.flatten ++ l.readTail))) := by
  simp [LoopEntry.toBytes, LoopEntry.readHead, LoopEntry.readDescs, LoopEntry.readMems, LoopEntry.readTail]

theorem bytes32_length (w : BitVec 32) : (bytes32 w).length = 4 := rfl

theorem readHead_length (l : LoopEntry) : l.readHead.length = 18 := rfl

theorem readTail_length (l : LoopEntry) : l.readTail.length = 19 := rfl

/-- The bytes of the definition are those DEFINE_LOOP sends behind the loop number (10.3). -/
theorem defineLoopHead_eq (i : LoopId) (d : Definition) : defineLoopHead i d = natByte i :: d.toBytes := by
  simp [defineLoopHead, Definition.toBytes]

theorem definition_bytes_length (d : Definition) : d.toBytes.length = 27 :=
  Nat.succ.inj ((congrArg List.length (defineLoopHead_eq 0 d)).symm.trans (length_defineLoopHead 0 d))

theorem definitionBytes_length (l : LoopEntry) : l.definitionBytes.length = 27 := by
  unfold LoopEntry.definitionBytes
  split
  · exact definition_bytes_length _
  · exact List.length_replicate

theorem stageDescBytes_length (d : Option StageDesc) : (stageDescBytes d).length = 4 := by cases d <;> rfl

theorem memBytes_length (l : LoopEntry) (k : Nat) : (l.memBytes k).length = 13 := by
  unfold LoopEntry.memBytes
  split
  · rfl
  · exact List.length_replicate

theorem readDescs_length (l : LoopEntry) : ∀ x ∈ l.readDescs, x.length = 4 := by
  simp [LoopEntry.readDescs, stageDescBytes_length]

theorem readMems_length (l : LoopEntry) : ∀ x ∈ l.readMems, x.length = 13 := by
  simp [LoopEntry.readMems, memBytes_length]

theorem readDescs_get (l : LoopEntry) (k : Fin 4) : l.readDescs[(k : Nat)]? = some (stageDescBytes (l.stageDesc? k)) := by
  match k with
  | 0 | 1 | 2 | 3 => rfl

theorem readMems_get (l : LoopEntry) (k : Fin 4) : l.readMems[(k : Nat)]? = some (l.memBytes k) := by
  match k with
  | 0 | 1 | 2 | 3 => rfl

/-- A stage beyond the stage count has no descriptor, and its memory reads as zeros (10.3). -/
theorem memBytes_eq (l : LoopEntry) (k : Nat) :
    l.memBytes k = match l.stageDesc? k with
      | none => List.replicate 13 0
      | some _ => (memAt l.mem k).toBytes := by
  unfold LoopEntry.memBytes LoopEntry.stageDesc? LoopEntry.stageCount
  cases l.definition with
  | none => rfl
  | some d =>
    by_cases hk : k < d.stages.length
    · simp [hk]
    · simp [hk]

theorem presented_eq_supplied (s : State) (i : LoopId) : (s.loop i).presented = s.supplied (.primary i) := rfl

theorem row_length {row : List (List Byte)} {n : Nat} (h : ∀ x ∈ row, x.length = n) :
    row.flatten.length = row.length * n := by
  rw [List.length_flatten, List.map_congr_left h, List.map_const', List.sum_replicate, smul_eq_mul]

/-- The bytes before the tail. -/
def LoopEntry.readFront (l : LoopEntry) : List Byte :=
  l.readHead ++ (l.definitionBytes ++ (l.readDescs.flatten ++ l.readMems.flatten))

theorem readFront_length (l : LoopEntry) : l.readFront.length = 113 := by
  simp only [LoopEntry.readFront, List.length_append, readHead_length, definitionBytes_length,
    row_length (readDescs_length l), row_length (readMems_length l)]
  rfl

theorem readLoop_front_tail (l : LoopEntry) : (0x00 : Byte) :: l.toBytes = l.readFront ++ l.readTail := by
  rw [readLoop_parts]
  simp only [LoopEntry.readFront, List.append_assoc]

/-- A byte of the tail stands at its place behind the front (10.3). -/
theorem byteAt_readTail (l : LoopEntry) (r : Nat) : byteAt (0x00 :: l.toBytes) (113 + r) = byteAt l.readTail r := by
  rw [readLoop_front_tail, ← readFront_length l, byteAt_append_right]

theorem word16At_readTail (l : LoopEntry) (r : Nat) : word16At (0x00 :: l.toBytes) (113 + r) = word16At l.readTail r :=
  congrArg₂ (fun x y : Byte => x ++ y) (byteAt_readTail l r) (byteAt_readTail l (r + 1))

/-- A byte of the head stands at its place (10.3). -/
theorem byteAt_readHead (l : LoopEntry) {r : Nat} (h : r < 18) :
    byteAt (0x00 :: l.toBytes) r = byteAt l.readHead r := by
  rw [readLoop_parts, byteAt_append_left (by rwa [readHead_length])]

theorem word16At_readHead (l : LoopEntry) {r : Nat} (h : r + 1 < 18) :
    word16At (0x00 :: l.toBytes) r = word16At l.readHead r :=
  congrArg₂ (fun x y : Byte => x ++ y) (byteAt_readHead l (Nat.lt_of_succ_lt h)) (byteAt_readHead l h)

theorem word32At_readHead (l : LoopEntry) {r : Nat} (h : r + 3 < 18) :
    word32At (0x00 :: l.toBytes) r = word32At l.readHead r :=
  congrArg₂ (fun x y : BitVec 16 => x ++ y) (word16At_readHead l (by omega)) (word16At_readHead l (by omega))

/-- The 27 bytes of the definition in the answer (10.3). -/
theorem definition_part (l : LoopEntry) (i : LoopId) : ((0x00 :: l.toBytes).drop 18).take 27 =
    match l.definition with
    | none => List.replicate 27 0
    | some d => ((defineLoopBytes i d []).drop 1).take 27 := by
  rw [readLoop_parts, take_drop_middle (readHead_length l) (definitionBytes_length l)]
  unfold LoopEntry.definitionBytes
  cases l.definition with
  | none => rfl
  | some d =>
    dsimp only
    rw [defineLoopBytes_eq, defineLoopHead_eq, List.cons_append, List.drop_succ_cons, List.drop_zero,
      ← definition_bytes_length d, List.take_left]

/-- The four bytes of a stage descriptor in the answer (10.3). -/
theorem desc_part (l : LoopEntry) (k : Fin 4) :
    ((0x00 :: l.toBytes).drop (45 + 4 * (k : Nat))).take 4 = stageDescBytes (l.stageDesc? k) := by
  have h : (l.readHead ++ l.definitionBytes).length = 45 := by
    rw [List.length_append, readHead_length, definitionBytes_length]
  rw [readLoop_parts, ← List.append_assoc, ← List.drop_drop, ← h, List.drop_left]
  exact take_drop_row (readDescs_length l) (readDescs_get l k) _

/-- The thirteen bytes of a stage memory in the answer (10.3). -/
theorem mem_part (l : LoopEntry) (k : Fin 4) :
    ((0x00 :: l.toBytes).drop (61 + 13 * (k : Nat))).take 13 = l.memBytes k := by
  have h : (l.readHead ++ (l.definitionBytes ++ l.readDescs.flatten)).length = 61 := by
    simp only [List.length_append, readHead_length, definitionBytes_length, row_length (readDescs_length l)]
    rfl
  have hparts : (0x00 : Byte) :: l.toBytes
      = (l.readHead ++ (l.definitionBytes ++ l.readDescs.flatten)) ++ (l.readMems.flatten ++ l.readTail) := by
    rw [readLoop_parts]
    simp only [List.append_assoc]
  rw [hparts, ← List.drop_drop, ← h, List.drop_left]
  exact take_drop_row (readMems_length l) (readMems_get l k) _

theorem readLoop_length (l : LoopEntry) : ((0x00 : Byte) :: l.toBytes).length = 132 := by
  rw [readLoop_front_tail, List.length_append, readFront_length, readTail_length]

end Sys2Proof.Machine

open Sys2Proof Sys2Proof.Machine

/-- Settles O11: the answer is the parts of 10.3 one behind another, and each is read at its place. -/
theorem readLoopReturnsTheEntry : Obligations.ReadLoopReturnsTheEntry := by
  refine ⟨fun s tag i hs => ⟨0x00 :: (s.loop i).toBytes, ?_, ?_⟩, fun s tag b hs hb => ?_⟩
  · have hread : reqReadLoop [natByte i] s = accept s (s.loop i).toBytes := by
      unfold reqReadLoop
      rw [if_neg (by simp), byteAt_cons_zero, loopOfByte_natByte]
    rw [exec_readLoop hs, hread]
    rfl
  · rw [← presented_eq_supplied]
    generalize s.loop i = l
    refine ⟨readLoop_length l, byteAt_readHead l (by decide), (byteAt_readHead l (by decide)).trans ?_,
      (byteAt_readHead l (by decide)).trans ?_, (byteAt_readHead l (by decide)).trans ?_,
      byteAt_readHead l (by decide), (word32At_readHead l (by decide)).trans (extract_append_32 _),
      byteAt_readHead l (by decide), byteAt_readHead l (by decide), byteAt_readHead l (by decide),
      (word16At_readHead l (by decide)).trans (extract_append_16 _),
      (word16At_readHead l (by decide)).trans (extract_append_16 _),
      (word16At_readHead l (by decide)).trans (extract_append_16 _),
      definition_part l i, fun k => (desc_part l k).trans ?_, fun k => (mem_part l k).trans ?_,
      byteAt_readTail l 0, byteAt_readTail l 1, (word16At_readTail l 2).trans (extract_append_16 _),
      byteAt_readTail l 4, (word16At_readTail l 5).trans (extract_append_16 _),
      (word16At_readTail l 7).trans (extract_append_16 _), (word16At_readTail l 9).trans (extract_append_16 _),
      (word16At_readTail l 11).trans (extract_append_16 _), (word16At_readTail l 13).trans (extract_append_16 _),
      (word16At_readTail l 15).trans (extract_append_16 _), (word16At_readTail l 17).trans (extract_append_16 _)⟩
    · change l.state.toByte = _
      cases l.state <;> rfl
    · change l.state.holdByte = _
      cases l.state with
      | held r => cases r <;> rfl
      | _ => rfl
    · change l.status.toByte = _
      cases l.status <;> rfl
    · unfold LoopEntry.stageDesc?
      cases l.definition.bind fun d => d.stages[(k : Nat)]? with
      | none => rfl
      | some st => cases hop : st.op <;> simp [stageDescBytes, hop, StageOp.toByte]
    · rw [memBytes_eq, memAt_eq]
      unfold LoopEntry.stageDesc?
      cases l.definition.bind fun d => d.stages[(k : Nat)]? <;> rfl
  · have hread : reqReadLoop [b] s = refuse s .badField := by
      unfold reqReadLoop
      rw [if_neg (by simp), byteAt_cons_zero, loopOfByte_eq_none.2 hb]
    rw [exec_readLoop hs, hread]
    rfl
end

section
/-! SUPPORT. PRESET_LOOP: its presets at their places, its checks in order, and what a taken one writes (R20). -/

namespace Sys2Proof.Machine

/-! ## The presets of a payload -/

/-- The preset at position `i` of a payload (10.3). -/
def presetAt (p : List Byte) (i : Nat) : Preset := ⟨byteAt p i, word32At p (i + 1), word32At p (i + 5)⟩

theorem presetsAt_eq_map (p : List Byte) (n i : Nat) :
    presetsAt p n i = (List.range n).map fun k => presetAt p (i + 13 * k) := by
  induction n generalizing i with
  | zero => rfl
  | succ n ih =>
    rw [presetsAt, ih, List.range_succ_eq_map, List.map_cons, List.map_map]
    refine congrArg (presetAt p i :: ·) (List.map_congr_left fun k _ => ?_)
    rw [Function.comp_apply, Nat.mul_succ, Nat.add_assoc, Nat.add_comm 13]

theorem mem_presetsAt {p : List Byte} {n i k : Nat} (h : k < n) : presetAt p (i + 13 * k) ∈ presetsAt p n i := by
  rw [presetsAt_eq_map]
  exact List.mem_map_of_mem (List.mem_range.2 h)

theorem indicesDistinct_iff (qs : List Preset) :
    indicesDistinct qs = true ↔ qs.Pairwise fun q r => q.index ≠ r.index := by
  induction qs with
  | nil => simp [indicesDistinct]
  | cons q rest ih =>
    rw [indicesDistinct, Bool.and_eq_true, ih, List.pairwise_cons, List.all_eq_true]
    simp only [bne_iff_ne, ne_comm]

/-- The checks of R20 that do not depend on the definition, over the index bytes at their places. -/
theorem presetsLegal_iff (p : List Byte) (n : Nat) : presetsLegal n (presetsAt p n 4) = true ↔
    n ≤ 4 ∧ (∀ k, k < n → (byteAt p (4 + 13 * k)).toNat ≠ 0)
      ∧ ∀ j k, j < k → k < n → (byteAt p (4 + 13 * j)).toNat ≠ (byteAt p (4 + 13 * k)).toNat := by
  have hzero : ∀ b : Byte, (b != 0) = true ↔ b.toNat ≠ 0 := fun b => bne_iff_ne.trans (not_congr BitVec.toNat_inj.symm)
  have hne : ∀ b c : Byte, b ≠ c ↔ b.toNat ≠ c.toNat := fun b c => not_congr BitVec.toNat_inj.symm
  rw [presetsLegal, Bool.and_eq_true, Bool.and_eq_true, indicesDistinct_iff, decide_eq_true_iff, presetsAt_eq_map,
    and_assoc, List.all_eq_true, List.pairwise_map, List.pairwise_iff_getElem]
  refine and_congr_right fun _ => and_congr ?_ ?_
  · simp only [List.forall_mem_map, List.mem_range, presetAt, hzero]
  · simp only [List.length_range, List.getElem_range, presetAt, hne]
    exact ⟨fun h j k hj hk => h j k (by omega) hk hj, fun h j k _ hk hj => h j k hj hk⟩

/-! ## The presets against the definition -/

theorem presetsFor_none_of_mem {d : Definition} {qs : List Preset} {q : Preset} (hq : q ∈ qs) (h : presetFor d q = none) :
    presetsFor d qs = none := by
  induction qs with
  | nil => cases hq
  | cons r rest ih =>
    rw [presetsFor]
    rcases List.mem_cons.1 hq with rfl | hq
    · rw [h]
    · rw [ih hq]
      cases presetFor d r <;> rfl

theorem presetsFor_map {α : Type} {d : Definition} {f : α → Preset} {g : α → Nat × Proposal} {l : List α}
    (h : ∀ a ∈ l, presetFor d (f a) = some (g a)) : presetsFor d (l.map f) = some (l.map g) := by
  induction l with
  | nil => rfl
  | cons a rest ih =>
    rw [List.map_cons, List.map_cons, presetsFor, h a List.mem_cons_self, ih fun b hb => h b (List.mem_cons_of_mem a hb)]

/-- A preset of a stage beyond the program is refused (R20). -/
theorem presetFor_beyond {d : Definition} {q : Preset} (h : d.stages.length ≤ q.index.toNat - 1) :
    presetFor d q = none := by
  unfold presetFor
  rw [List.getElem?_eq_none h]

theorem presetFor_of_stage {d : Definition} {q : Preset} {st : StageDesc} (hst : d.stages[q.index.toNat - 1]? = some st) :
    presetFor d q = (presetProposal st.op q.word1 q.word2).join.map fun w => (q.index.toNat - 1, w) := by
  unfold presetFor
  rw [hst]
  dsimp only
  rcases presetProposal st.op q.word1 q.word2 with _ | _ | w <;> rfl

/-- Words PRESET_LOOP refuses for an op: any where it has no memory words, and those outside the ranges of R5 (R20). -/
def WrongWords (op : StageOp) (w1 w2 : Int) : Prop :=
  match op with
  | .lpf => False
  | .pid => w1 < -134213632 ∨ 134213632 < w1 ∨ w2 < -65535 ∨ 65535 < w2
  | .limit => w1 < -32768 ∨ 32767 < w1
  | _ => True

theorem presetProposal_of_wrong {op : StageOp} {w1 w2 : MemWord} (h : WrongWords op w1.toInt w2.toInt) :
    (presetProposal op w1 w2).join = none := by
  cases op with
  | lpf => exact h.elim
  | pid =>
    have hout : ¬(-integratorMax ≤ w1.toInt ∧ w1.toInt ≤ integratorMax ∧ -65535 ≤ w2.toInt ∧ w2.toInt ≤ 65535) := by
      simp only [WrongWords] at h
      unfold integratorMax
      omega
    simp only [presetProposal, if_neg hout, Option.join_some]
  | limit =>
    have hout : ¬(-32768 ≤ w1.toInt ∧ w1.toInt ≤ 32767) := by
      simp only [WrongWords] at h
      omega
    simp only [presetProposal, if_neg hout, Option.join_some]
  | gain | sum | div | rotate | atan => rfl

/-! ## The request -/

section

variable {s : State} {p : List Byte} (hlen : p.length = 4 + 13 * (byteAt p 3).toNat)
include hlen

theorem presetLoop_noLoop (h : loopOfByte (byteAt p 0) = none) : reqPresetLoop p s = refuse s .badField := by
  unfold reqPresetLoop
  rw [if_neg (by omega), h]

variable {i : LoopId} (hi : loopOfByte (byteAt p 0) = some i)
include hi

theorem presetLoop_notListed (h : presetsLegal (byteAt p 3).toNat (presetsAt p (byteAt p 3).toNat 4) = false) :
    reqPresetLoop p s = refuse s .badField := by
  unfold reqPresetLoop
  rw [if_neg (by omega), hi]
  exact if_pos h

variable (hlisted : presetsLegal (byteAt p 3).toNat (presetsAt p (byteAt p 3).toNat 4) = true)
include hlisted

theorem presetLoop_undefined (h : (s.loop i).definition = none) : reqPresetLoop p s = refuse s .badLoop := by
  unfold reqPresetLoop
  rw [if_neg (by omega), hi]
  dsimp only
  rw [if_neg (by rw [hlisted]; nofun), h]

variable {d : Definition} (hd : (s.loop i).definition = some d)
include hd

theorem presetLoop_unfit (h : presetsFor d (presetsAt p (byteAt p 3).toNat 4) = none) :
    reqPresetLoop p s = refuse s .badField := by
  unfold reqPresetLoop
  rw [if_neg (by omega), hi]
  dsimp only
  rw [if_neg (by rw [hlisted]; nofun), hd]
  dsimp only
  rw [h]

/-- Presets the definition accepts: the primary output and then the state are checked (R20). -/
theorem presetLoop_fit {ws : List (Nat × Proposal)}
    (h : presetsFor d (presetsAt p (byteAt p 3).toNat 4) = some ws) :
    reqPresetLoop p s =
      if (word16At p 1).toInt < d.outMin.toInt ∨ d.outMax.toInt < (word16At p 1).toInt then refuse s .badField
      else if (s.loop i).state = .active ∨ (s.loop i).state = .faulted then refuse s .state
      else accept (s.modLoop i fun l => l.preset (word16At p 1) ws) [] := by
  unfold reqPresetLoop
  rw [if_neg (by omega), hi]
  dsimp only
  rw [if_neg (by rw [hlisted]; nofun), hd]
  dsimp only
  rw [h]

/-- A primary output outside the range of the definition is refused, whatever the presets (R20). -/
theorem presetLoop_primary_out
    (h : (word16At p 1).toInt < d.outMin.toInt ∨ d.outMax.toInt < (word16At p 1).toInt) :
    reqPresetLoop p s = refuse s .badField := by
  cases hws : presetsFor d (presetsAt p (byteAt p 3).toNat 4) with
  | none => exact presetLoop_unfit hlen hi hlisted hd hws
  | some ws => rw [presetLoop_fit hlen hi hlisted hd hws, if_pos h]

end

/-! ## What the host fills in -/

/-- The 13 bytes of a preset (10.3). -/
def PresetEntry.toBytes (q : PresetEntry) : List Byte :=
  natByte q.index :: bytes32 q.word1 ++ bytes32 q.word2 ++ bytes32 q.word3

/-- What the field check sees of a preset (R20). -/
def PresetEntry.seen (q : PresetEntry) : Preset := ⟨natByte q.index, q.word1, q.word2⟩

theorem byteAt_drop (p : List Byte) (i r : Nat) : byteAt (p.drop i) r = byteAt p (i + r) := by
  simp [byteAt, List.getD_eq_getElem?_getD, List.getElem?_drop]

theorem byteAt_take {p : List Byte} {n r : Nat} (h : r < n) : byteAt (p.take n) r = byteAt p r := by
  simp [byteAt, List.getD_eq_getElem?_getD, List.getElem?_take_of_lt h]

/-- A preset is read from its own 13 bytes. -/
theorem presetAt_slice (p : List Byte) (i : Nat) : presetAt p i = presetAt ((p.drop i).take 13) 0 := by
  have hb : ∀ r, r < 13 → byteAt ((p.drop i).take 13) r = byteAt p (i + r) := fun r hr => by
    rw [byteAt_take hr, byteAt_drop]
  unfold presetAt word32At word16At
  simp only [Nat.zero_add, Nat.reduceAdd, Nat.add_assoc, hb _ (show 0 < 13 by omega), hb _ (show 1 < 13 by omega),
    hb _ (show 2 < 13 by omega), hb _ (show 3 < 13 by omega), hb _ (show 4 < 13 by omega), hb _ (show 5 < 13 by omega),
    hb _ (show 6 < 13 by omega), hb _ (show 7 < 13 by omega), hb _ (show 8 < 13 by omega), Nat.add_zero]

theorem presetAt_toBytes (q : PresetEntry) : presetAt q.toBytes 0 = q.seen :=
  congrArg₂ (fun a b => Preset.mk (natByte q.index) a b) (extract_append_32 q.word1) (extract_append_32 q.word2)

/-- The four bytes ahead of the presets (10.3). -/
def presetHead (i : LoopId) (v : Count) (n : Nat) : List Byte := [natByte i] ++ bytes16 v ++ [natByte n]

theorem presetLoopBytes_eq (i : LoopId) (v : Count) (qs : List PresetEntry) :
    presetLoopBytes i v qs = presetHead i v qs.length ++ (qs.map PresetEntry.toBytes).flatten := by
  rw [presetLoopBytes, List.flatMap_def]
  rfl

theorem presetLoopBytes_head (i : LoopId) (v : Count) (qs : List PresetEntry) :
    byteAt (presetLoopBytes i v qs) 0 = natByte i ∧ word16At (presetLoopBytes i v qs) 1 = v
      ∧ byteAt (presetLoopBytes i v qs) 3 = natByte qs.length := by
  rw [presetLoopBytes_eq]
  exact ⟨rfl, extract_append_16 v, rfl⟩

theorem presetLoopBytes_length (i : LoopId) (v : Count) (qs : List PresetEntry) :
    (presetLoopBytes i v qs).length = 4 + 13 * qs.length := by
  have hrow : ∀ x ∈ qs.map PresetEntry.toBytes, x.length = 13 := fun x hx => by
    obtain ⟨q, -, rfl⟩ := List.mem_map.1 hx
    rfl
  rw [presetLoopBytes_eq, List.length_append, row_length hrow, List.length_map, Nat.mul_comm]
  rfl

/-- The presets the host fills in are read back (10.3). -/
theorem presetsAt_presetLoopBytes (i : LoopId) (v : Count) (qs : List PresetEntry) :
    presetsAt (presetLoopBytes i v qs) qs.length 4 = qs.map PresetEntry.seen := by
  have hrow : ∀ x ∈ qs.map PresetEntry.toBytes, x.length = 13 := fun x hx => by
    obtain ⟨q, -, rfl⟩ := List.mem_map.1 hx
    rfl
  rw [presetsAt_eq_map]
  refine List.ext_getElem (by simp) fun k hk hk' => ?_
  have hlt : k < qs.length := by simpa using hk
  have hrowAt := take_drop_row hrow (k := k) (part := (qs[k]).toBytes) (by simp [hlt]) []
  rw [List.append_nil] at hrowAt
  rw [List.getElem_map, List.getElem_range, List.getElem_map, presetAt_slice, ← List.drop_drop, presetLoopBytes_eq,
    show ∀ l, (presetHead i v qs.length ++ l).drop 4 = l from fun l => rfl, hrowAt, presetAt_toBytes]

theorem natByte_index {q : PresetEntry} (h : q.index ≤ 4) : (natByte q.index).toNat = q.index := natByte_toNat (by omega)

/-- A list of presets the host may send passes the checks that do not depend on the definition (R20). -/
theorem presetsLegal_seen {qs : List PresetEntry} (hn : qs.length ≤ 4) (hd : (qs.map fun q => q.index).Nodup)
    (h : ∀ q ∈ qs, 1 ≤ q.index ∧ q.index ≤ 4) : presetsLegal qs.length (qs.map PresetEntry.seen) = true := by
  rw [presetsLegal, Bool.and_eq_true, Bool.and_eq_true, indicesDistinct_iff, decide_eq_true_iff, List.all_eq_true,
    List.pairwise_map]
  refine ⟨⟨hn, fun x hx => ?_⟩, (List.pairwise_map.1 hd).imp_of_mem fun ha hb hne heq => hne ?_⟩
  · obtain ⟨q, hq, rfl⟩ := List.mem_map.1 hx
    obtain ⟨h1, h4⟩ := h q hq
    refine bne_iff_ne.2 fun h0 => ?_
    have := congrArg BitVec.toNat h0
    rw [show q.seen.index = natByte q.index from rfl, natByte_index h4] at this
    simp at this
    omega
  · rw [← natByte_index (h _ ha).2, ← natByte_index (h _ hb).2]
    exact congrArg BitVec.toNat heq

/-- The words a preset writes under a definition: word 2 for PID alone (R5, R20). -/
def PresetEntry.words (d : Definition) (q : PresetEntry) : Nat × Proposal :=
  (q.index - 1, ⟨q.word1,
    if (d.stages[q.index - 1]?.map fun st => st.op) = some .pid then some q.word2 else none⟩)

theorem presetFor_seen {d : Definition} {q : PresetEntry} (h4 : q.index ≤ 4) {st : StageDesc}
    (hst : d.stages[q.index - 1]? = some st) (hq : PresetInRange st.op q) :
    presetFor d q.seen = some (q.words d) := by
  have hidx : q.seen.index.toNat = q.index := natByte_index h4
  rw [presetFor_of_stage (by rw [hidx]; exact hst), hidx]
  unfold PresetEntry.words presetProposal
  unfold PresetInRange at hq
  rw [hst]
  cases hop : st.op with
  | lpf => simp [PresetEntry.seen, hop]
  | pid =>
    rw [hop] at hq
    simp [PresetEntry.seen, hop, integratorMax, hq]
  | limit =>
    rw [hop] at hq
    simp [PresetEntry.seen, hop, hq]
  | gain | sum | div | rotate | atan =>
    rw [hop] at hq
    exact hq.elim

/-! ## What a taken request writes -/

/-- Presets of distinct stages: each stage named takes its words, and every other one stays (R20). -/
theorem presetMem_get {ws : List (Nat × Proposal)} (hd : (ws.map (·.1)).Nodup) (m : Vector StageMem 4) (k : Fin 4) :
    (presetMem m ws)[k]
      = ((ws.find? fun w => w.1 = (k : Nat)).map fun w => (m[k]).accept (some w.2)).getD m[k] := by
  induction ws generalizing m with
  | nil => rfl
  | cons w rest ih =>
    obtain ⟨hw, hrest⟩ := List.nodup_cons.1 hd
    have hstep : presetMem m (w :: rest) = presetMem (m.setIfInBounds w.1 ((memAt m w.1).accept (some w.2))) rest := rfl
    rw [hstep, ih hrest]
    by_cases hk : w.1 = (k : Nat)
    · have hnone : (rest.find? fun x => x.1 = (k : Nat)) = none := List.find?_eq_none.2 fun x hx he =>
        hw (List.mem_map.2 ⟨x, hx, (of_decide_eq_true he).trans hk.symm⟩)
      rw [hnone, List.find?_cons_of_pos (by simpa using hk), hk, memAt_eq]
      simp
    · rw [List.find?_cons_of_neg (by simpa using hk)]
      have hget : (m.setIfInBounds w.1 ((memAt m w.1).accept (some w.2)))[k] = m[k] := by
        simp [hk]
      rw [hget]

/-- The memory of a stage that a preset writes: word 2 for PID alone (R5, R20). -/
def PresetEntry.write (d : Definition) (k : Fin 4) (m : StageMem) (q : PresetEntry) : StageMem :=
  { m with
    word1 := q.word1
    word2 := if (d.stages[(k : Nat)]?.map fun st => st.op) = some .pid then q.word2 else m.word2
    seeded := true }

theorem accept_words {d : Definition} {k : Fin 4} {q : PresetEntry} (h : q.index = (k : Nat) + 1) (m : StageMem) :
    m.accept (some (q.words d).2) = q.write d k m := by
  unfold PresetEntry.words PresetEntry.write StageMem.accept
  dsimp only
  rw [h, Nat.add_sub_cancel]
  split <;> rfl

/-- The presets the host names, written: each stage takes those of the preset that names it (R20). -/
theorem presetMem_words {d : Definition} {qs : List PresetEntry} (hd : (qs.map fun q => q.index).Nodup)
    (h : ∀ q ∈ qs, 1 ≤ q.index) (mem : Vector StageMem 4) :
    presetMem mem (qs.map (PresetEntry.words d)) = Vector.ofFn fun k : Fin 4 =>
      ((qs.find? fun q => q.index = (k : Nat) + 1).map (PresetEntry.write d k mem[k])).getD mem[k] := by
  have hkeys : ((qs.map (PresetEntry.words d)).map (·.1)).Nodup := by
    rw [List.map_map]
    refine List.pairwise_map.2 ((List.pairwise_map.1 hd).imp_of_mem fun ha hb hne heq => hne ?_)
    have hpred : _ - 1 = _ - 1 := heq
    have h1 := h _ ha
    have h2 := h _ hb
    omega
  ext1 k hk
  have hget := presetMem_get hkeys mem ⟨k, hk⟩
  have hsame : ∀ q ∈ qs, decide ((q.words d).1 = k) = decide (q.index = k + 1) := fun q hq => by
    have h1 := h q hq
    exact decide_eq_decide.2 (show q.index - 1 = k ↔ q.index = k + 1 by omega)
  rw [List.find?_map, show qs.find? ((fun w : Nat × Proposal => decide (w.1 = k)) ∘ PresetEntry.words d)
    = qs.find? fun q => q.index = k + 1 from List.find?_congr hsame] at hget
  rw [Vector.getElem_ofFn]
  cases hq : qs.find? fun q => q.index = k + 1 with
  | none =>
    rw [hq] at hget
    exact hget
  | some q =>
    rw [hq] at hget
    have hindex : q.index = k + 1 := by simpa using List.find?_some hq
    exact hget.trans (accept_words (k := ⟨k, hk⟩) hindex _)

end Sys2Proof.Machine

open Sys2Proof Sys2Proof.Machine

/-- Settles O19: the presets stand at their places, and the checks are made in the order of R20. -/
theorem presetLoopWritesTheNamedStages : Obligations.PresetLoopWritesTheNamedStages := by
  constructor
  · intro s tag p hs
    dsimp only
    intro _ hlen
    have hbadField : reqPresetLoop p s = refuse s .badField →
        exec (.presetLoop tag p) s = .next (s.reply 0x96 tag [0x03]) := fun h => by
      rw [exec_presetLoop hs, h]
      rfl
    refine ⟨fun hnot => hbadField ?_, fun i hi ⟨_, hlisted⟩ => ?_⟩
    · cases hi : loopOfByte (byteAt p 0) with
      | none => exact presetLoop_noLoop hlen hi
      | some i =>
        refine presetLoop_notListed hlen hi (Bool.eq_false_iff.2 fun h => hnot ?_)
        have hle : (byteAt p 0).toNat ≤ 15 := by rw [← loopOfByte_eq_some.1 hi]; omega
        exact ⟨hle, (presetsLegal_iff p _).1 h⟩
    · have hlegal := (presetsLegal_iff p _).2 hlisted
      have hloop := loopOfByte_eq_some.2 hi
      refine ⟨fun h => ?_, fun d hd hwrong => hbadField ?_⟩
      · rw [exec_presetLoop hs, presetLoop_undefined hlen hloop hlegal h]
        rfl
      · rcases hwrong with ⟨k, hk, hbeyond⟩ | ⟨k, st, hk, hst, hw⟩ | hrange
        · exact presetLoop_unfit hlen hloop hlegal hd
            (presetsFor_none_of_mem (mem_presetsAt hk) (presetFor_beyond (Nat.le_sub_one_of_lt hbeyond)))
        · refine presetLoop_unfit hlen hloop hlegal hd (presetsFor_none_of_mem (mem_presetsAt hk) ?_)
          rw [presetFor_of_stage hst, presetProposal_of_wrong]
          · rfl
          · simp only [presetAt, show 4 + 13 * k + 1 = 5 + 13 * k by omega, show 4 + 13 * k + 5 = 9 + 13 * k by omega]
            exact hw
        · exact presetLoop_primary_out hlen hloop hlegal hd hrange
  · intro s tag i d v qs hs hd hn hnodup hqs
    dsimp only
    obtain ⟨hbyte0, hprimary, hbyte3⟩ := presetLoopBytes_head i v qs
    have hcount : (byteAt (presetLoopBytes i v qs) 3).toNat = qs.length := by rw [hbyte3, natByte_toNat (by omega)]
    have hlen : (presetLoopBytes i v qs).length = 4 + 13 * (byteAt (presetLoopBytes i v qs) 3).toNat := by
      rw [hcount, presetLoopBytes_length]
    have hloop : loopOfByte (byteAt (presetLoopBytes i v qs) 0) = some i := by rw [hbyte0, loopOfByte_natByte]
    have hread : presetsAt (presetLoopBytes i v qs) (byteAt (presetLoopBytes i v qs) 3).toNat 4
        = qs.map PresetEntry.seen := by rw [hcount, presetsAt_presetLoopBytes]
    have hlegal : presetsLegal (byteAt (presetLoopBytes i v qs) 3).toNat
        (presetsAt (presetLoopBytes i v qs) (byteAt (presetLoopBytes i v qs) 3).toNat 4) = true := by
      rw [hread, hcount]
      exact presetsLegal_seen hn hnodup fun q hq => ⟨(hqs q hq).1, (hqs q hq).2.1⟩
    have hfit : presetsFor d (presetsAt (presetLoopBytes i v qs) (byteAt (presetLoopBytes i v qs) 3).toNat 4)
        = some (qs.map (PresetEntry.words d)) := by
      rw [hread]
      refine presetsFor_map fun q hq => ?_
      obtain ⟨-, h4, st, hst, hrange⟩ := hqs q hq
      exact presetFor_seen h4 hst hrange
    have hreq := presetLoop_fit (s := s) hlen hloop hlegal hd hfit
    rw [hprimary] at hreq
    rw [exec_presetLoop hs, hreq]
    refine ⟨fun hout => ?_, fun hin hstate => ?_, fun hin hactive hfaulted => ?_⟩
    · rw [if_pos (by omega)]
      rfl
    · rw [if_neg (by omega), if_pos hstate]
      rfl
    · rw [if_neg (by omega), if_neg (by simp [hactive, hfaulted])]
      have hmem := presetMem_words (d := d) hnodup (fun q hq => (hqs q hq).1) (s.loop i).mem
      exact congrArg (fun mem => Host.Outcome.next (State.reply { s with loops := s.loops.set i { s.loop i with
        primary := v, outputValid := true, safeSub := false, mem := mem } } 0x96 tag [0x00])) hmem
end

section
/-! SUPPORT. The clamps, shifts and conversions of the stage arithmetic, said with `max`, `min` and `/`, and what each
op runs (R31, R32). -/

namespace Sys2Proof.Machine

/-! ## Clamps and counts -/

theorem clamp_eq_max_min {lo hi : Int} (h : lo ≤ hi) (x : Int) : clamp lo hi x = max lo (min hi x) := by
  unfold clamp
  split
  · omega
  · split <;> omega

theorem clamp_of_mem {lo hi x : Int} (h : lo ≤ x ∧ x ≤ hi) : clamp lo hi x = x := by
  rw [clamp_eq_max_min (by omega)]
  omega

theorem clampMarks_iff {lo hi : Int} (h : lo ≤ hi) (x : Int) :
    clampMarks lo hi x = true ↔ max lo (min hi x) ≠ x := by
  simp [clampMarks, clamp_eq_max_min h]

theorem sat16_eq_max_min (x : Int) : sat16 x = max (-32768) (min 32767 x) := clamp_eq_max_min (by decide) x

theorem satMarks_iff (x : Int) : satMarks x = true ↔ max (-32768) (min 32767 x) ≠ x := by
  simp [satMarks, sat16_eq_max_min]

/-- The values sat16 changes are those outside the count range (R31). -/
theorem satMarks_iff_out (x : Int) : satMarks x = true ↔ x < -32768 ∨ 32767 < x := by
  rw [satMarks_iff]
  omega

/-- A value of the count range stands in a count as itself. -/
theorem toInt_toCount {x : Int} (h : -32768 ≤ x ∧ x ≤ 32767) : (toCount x).toInt = x := by
  rw [toCount, BitVec.toInt_ofInt, Int.bmod_eq_of_le] <;> omega

@[simp] theorem toCount_toInt (c : Count) : toCount c.toInt = c := BitVec.ofInt_toInt

theorem toInt_toCount_sat16 (x : Int) : (toCount (sat16 x)).toInt = max (-32768) (min 32767 x) := by
  rw [sat16_eq_max_min, toInt_toCount (by omega)]

theorem sat16_toInt (c : Count) : sat16 c.toInt = c.toInt := clamp_of_mem (count_bounds c)

@[simp] theorem satMarks_toInt (c : Count) : satMarks c.toInt = false := by
  simp [satMarks, sat16_toInt]

@[simp] theorem toCount_sat16_toInt (c : Count) : toCount (sat16 c.toInt) = c := by
  rw [sat16_toInt, toCount_toInt]

theorem toInt_eq_zero_iff (c : Count) : c.toInt = 0 ↔ c = 0 := by
  rw [← BitVec.toInt_inj]
  rfl

/-- A right shift rounds toward minus infinity, as the integer quotient by the power of two does (R33). -/
theorem shiftRight_eq_ediv (x : Int) (n : Nat) : x >>> n = x / 2 ^ n := by
  rw [Int.shiftRight_eq_div_pow]
  push_cast
  rfl

/-! ## What each op runs (R32) -/

section Ops
variable {d : StageDesc} (c : Coefs) (m : StageMem) (a b : Count)

theorem runStage_gain (h : d.op = .gain) : runStage d c m a b = stageGain d c a b := by simp [runStage, h]
theorem runStage_sum (h : d.op = .sum) : runStage d c m a b = stageSum c a b := by simp [runStage, h]
theorem runStage_lpf (h : d.op = .lpf) : runStage d c m a b = stageLpf c m a b := by simp [runStage, h]
theorem runStage_pid (h : d.op = .pid) : runStage d c m a b = stagePid d c m a b := by simp [runStage, h]
theorem runStage_div (h : d.op = .div) : runStage d c m a b = stageDiv d a b := by simp [runStage, h]
theorem runStage_rotate (h : d.op = .rotate) : runStage d c m a b = stageRotate c a b := by simp [runStage, h]
theorem runStage_atan (h : d.op = .atan) : runStage d c m a b = stageAtan a b := by simp [runStage, h]
theorem runStage_limit (h : d.op = .limit) : runStage d c m a b = stageLimit c m a b := by simp [runStage, h]

end Ops

end Sys2Proof.Machine
end

section
/-! SUPPORT. GAIN, SUM and DIV (R33, R34, R39, R40). -/

namespace Sys2Proof.Machine

theorem targetsA_iff (t : Byte) : targetsA t = true ↔ t = 0 ∨ t = 2 := by simp [targetsA]

theorem targetsB_iff (t : Byte) : targetsB t = true ↔ t = 1 ∨ t = 2 := by simp [targetsB]

theorem gainValue_eq (x c0 : Int) (shift : Nat) : gainValue x c0 shift = x * c0 / 2 ^ shift := shiftRight_eq_ediv _ _

theorem sumValue_eq (c : Coefs) (a b : Int) :
    sumValue c a b = (c.c0.toInt * a + c.c1.toInt * b) / 16384 + c.c2.toInt := by
  rw [sumValue, shiftRight_eq_ediv]
  norm_num

theorem stageDiv_of_ne_zero (d : StageDesc) (a : Count) {b : Count} (h : b ≠ 0) :
    stageDiv d a b = ⟨toCount (sat16 (Int.tdiv (a.toInt * 2 ^ (d.shift : Nat)) b.toInt)), b, none,
      satMarks (Int.tdiv (a.toInt * 2 ^ (d.shift : Nat)) b.toInt), false⟩ :=
  if_neg (mt (toInt_eq_zero_iff b).1 h)

theorem stageDiv_zero (d : StageDesc) (a : Count) :
    stageDiv d a 0 = ⟨if 0 ≤ a.toInt then toCount 32767 else toCount (-32768), 0, none, false, true⟩ := rfl

end Sys2Proof.Machine

open Sys2Proof.Machine

/-- Settles O50, op by op: each value is formed exactly, and the one clamp behind it decides the mark. -/
theorem gainSumAndDivAreExact : Obligations.GainSumAndDivAreExact := by
  refine ⟨?_, ?_, ?_⟩
  · intro st c m a b hop
    dsimp only
    rw [runStage_gain c m a b hop, ← targetsA_iff, ← targetsB_iff, ← gainValue_eq, ← gainValue_eq, ← satMarks_iff,
      ← satMarks_iff, ← toInt_toCount_sat16, ← toInt_toCount_sat16]
    refine ⟨fun hA => ?_, fun hA => ?_, fun hB => ?_, fun hB => ?_, ?_, rfl, rfl⟩
    · simp [stageGain, hA]
    · simp [stageGain, hA]
    · simp [stageGain, hB]
    · simp [stageGain, hB]
    · simp [stageGain]
  · intro st c m a b hop
    dsimp only
    rw [runStage_sum c m a b hop, ← sumValue_eq]
    exact ⟨toInt_toCount_sat16 _, rfl, satMarks_iff_out _, rfl, rfl⟩
  · intro st c m a b hop
    dsimp only
    rw [runStage_div c m a b hop]
    by_cases hb : b = 0
    · subst hb
      rw [stageDiv_zero]
      refine ⟨rfl, rfl, fun h => absurd rfl h, fun _ => ⟨?_, rfl, rfl⟩⟩
      dsimp only
      split <;> rfl
    · rw [stageDiv_of_ne_zero st a hb]
      exact ⟨rfl, rfl, fun _ => ⟨toInt_toCount_sat16 _, rfl, satMarks_iff_out _⟩, fun h => absurd h hb⟩
end

section
/-! SUPPORT. LPF (R35). -/

namespace Sys2Proof.Machine

/-- A step of K / 32 768 of the way from `f` to `t` ends between the two. -/
theorem lpf_step_between {k f t : Int} (h0 : 0 ≤ k) (h1 : k ≤ 32767) :
    min f t ≤ f + k * (t - f) / 32768 ∧ f + k * (t - f) / 32768 ≤ max f t := by
  have step (d : Int) : min 0 d ≤ k * d / 32768 ∧ k * d / 32768 ≤ max 0 d := by
    rcases le_total 0 d with hd | hd
    · have h2 : 0 ≤ k * d := mul_nonneg h0 hd
      have h3 : k * d ≤ 32767 * d := mul_le_mul_of_nonneg_right h1 hd
      omega
    · have h2 : k * d ≤ 0 := mul_nonpos_of_nonneg_of_nonpos h0 hd
      have h3 : 32767 * d ≤ k * d := mul_le_mul_of_nonpos_right h1 hd
      omega
  have h := step (t - f)
  omega

/-- The accumulator a seeded LPF moves to, before its clamp (R35). -/
theorem lpf_raw_eq (k f a : Int) : f + ((k * (a * 65536 - f)) >>> (15 : Nat)) = f + k * (a * 65536 - f) / 32768 := by
  rw [shiftRight_eq_ediv]
  norm_num

/-- With K of 0 or more the accumulator stays within 32 bits, so that its clamp never acts (R35). -/
theorem lpf_next_bounds {c : Coefs} (hk : 0 ≤ c.c0.toInt) (f : MemWord) (a : Count) :
    -2147483648 ≤ f.toInt + c.c0.toInt * (a.toInt * 65536 - f.toInt) / 32768
      ∧ f.toInt + c.c0.toInt * (a.toInt * 65536 - f.toInt) / 32768 ≤ 2147483647 := by
  have hb := lpf_step_between (f := f.toInt) (t := a.toInt * 65536) hk (count_bounds c.c0).2
  have ha := count_bounds a
  have hf1 := f.le_toInt
  have hf2 := f.toInt_lt
  omega

/-- A seeded LPF, with neither clamp acting (R35). -/
theorem stageLpf_seeded {c : Coefs} {m : StageMem} (hs : m.seeded = true) (hk : 0 ≤ c.c0.toInt) (a b : Count) :
    let f := m.word1.toInt + c.c0.toInt * (a.toInt * 65536 - m.word1.toInt) / 32768
    stageLpf c m a b = ⟨toCount (f / 65536), b, some ⟨BitVec.ofInt 32 f, none⟩, false, false⟩ := by
  intro f
  have hf := lpf_next_bounds hk m.word1 a
  have hshift : f >>> (16 : Nat) = f / 65536 := by rw [shiftRight_eq_ediv]; norm_num
  have h16 : sat16 (f / 65536) = f / 65536 := clamp_of_mem (by omega)
  have h32 : clamp (-2147483648) 2147483647 f = f := clamp_of_mem hf
  simp only [stageLpf, hs, if_true, lpfNext, lpf_raw_eq, clampMarks, satMarks]
  rw [h32, hshift, h16]
  simp [f]

theorem stageLpf_unseeded {m : StageMem} (hs : m.seeded = false) (c : Coefs) (a b : Count) :
    stageLpf c m a b = ⟨a, b, some ⟨BitVec.ofInt 32 (a.toInt * 65536), none⟩, false, false⟩ := by
  simp [stageLpf, hs]

end Sys2Proof.Machine

open Sys2Proof.Machine

/-- Settles O51: a seeded LPF stays between its accumulator and its input, so that no clamp acts. -/
theorem lpfFollowsItsInputWithoutSaturating : Obligations.LpfFollowsItsInputWithoutSaturating := by
  intro st c m a b hop hk
  dsimp only
  rw [runStage_lpf c m a b hop]
  cases hs : m.seeded with
  | true =>
    have hf := lpf_next_bounds hk m.word1 a
    rw [stageLpf_seeded hs hk, if_pos rfl]
    exact ⟨⟨_, rfl, toInt_ofInt32 hf, rfl⟩, toInt_toCount (by omega), nofun, rfl, rfl, rfl⟩
  | false =>
    have ha := count_bounds a
    rw [stageLpf_unseeded hs, if_neg Bool.false_ne_true]
    exact ⟨⟨_, rfl, toInt_ofInt32 (by omega), rfl⟩, by dsimp only; omega, fun _ => rfl, rfl, rfl, rfl⟩
end

section
/-! SUPPORT. PID (R36 to R38). -/

namespace Sys2Proof.Machine

theorem pidTerms_next (d : StageDesc) (c : Coefs) (m : StageMem) (a b : Count) :
    (pidTerms d c m a b).next = max (-134213632) (min 134213632 (pidTerms d c m a b).raw) :=
  clamp_eq_max_min (by decide) _

theorem pidTerms_u (d : StageDesc) (c : Coefs) (m : StageMem) (a b : Count) :
    (pidTerms d c m a b).u = (c.c0.toInt * (pidTerms d c m a b).e + (pidTerms d c m a b).next + c.c2.toInt
      * ((pidTerms d c m a b).e - if m.seeded then m.word2.toInt else (pidTerms d c m a b).e)) / 4096 :=
  shiftRight_eq_ediv _ 12

theorem pidHolds_iff (c1 : Int) (t : PidTerms) :
    pidHolds c1 t = true ↔ (0 < c1 * t.e ∧ 32767 < t.u) ∨ (c1 * t.e < 0 ∧ t.u < -32768) := by
  simp [pidHolds]

/-- PID with its terms formed: the output, the words proposed and the mark (R36 to R38). -/
theorem stagePid_spec (d : StageDesc) (c : Coefs) (m : StageMem) (a b : Count) {t : PidTerms}
    (ht : pidTerms d c m a b = t) {held : Prop}
    (hheld : held ↔ (0 < c.c1.toInt * t.e ∧ 32767 < t.u) ∨ (c.c1.toInt * t.e < 0 ∧ t.u < -32768)) :
    (stagePid d c m a b).a.toInt = max (-32768) (min 32767 t.u) ∧ (stagePid d c m a b).b = b
    ∧ (∃ q w, (stagePid d c m a b).proposal = some q ∧ q.word2 = some w ∧ w.toInt = t.e
        ∧ (held → q.word1 = m.word1) ∧ (¬held → q.word1.toInt = t.next))
    ∧ ((stagePid d c m a b).sat = true ↔ t.next ≠ t.raw ∨ t.u < -32768 ∨ 32767 < t.u)
    ∧ (stagePid d c m a b).arith = false := by
  have he := pid_error_bounds d c m a b
  have hnext := pidTerms_next d c m a b
  have hi : (pidTerms d c m a b).i = m.word1.toInt := rfl
  rw [← pidHolds_iff] at hheld
  unfold stagePid
  rw [ht] at he hnext hi ⊢
  refine ⟨toInt_toCount_sat16 _, rfl, ⟨_, _, rfl, rfl, toInt_ofInt32 (by omega), fun h => ?_, fun h => ?_⟩, ?_, rfl⟩
  · rw [if_pos (hheld.1 h), hi]
    exact BitVec.ofInt_toInt
  · rw [if_neg (mt hheld.2 h), toInt_ofInt32 (by omega)]
  · rw [Bool.or_eq_true, satMarks_iff_out, hnext]
    exact or_congr_left (clampMarks_iff (by decide) _)

end Sys2Proof.Machine

open Sys2Proof.Machine

/-- Settles O52: PID read off its terms. -/
theorem pidHoldsItsIntegratorInSaturation : Obligations.PidHoldsItsIntegratorInSaturation := by
  intro st c m a b hop _ _
  rw [runStage_pid c m a b hop]
  dsimp only
  have h := stagePid_spec st c m a b rfl Iff.rfl
  rw [pidTerms_u, pidTerms_next] at h
  exact h
end

section
/-! SUPPORT. LIMIT (R44, R45). -/

namespace Sys2Proof.Machine

/-- The value LIMIT hands on, clamp by clamp (R44, R45). -/
theorem limitValue_eq {c : Coefs} (hc : c.c0.toInt ≤ c.c1.toInt) (m : StageMem) (a : Int) :
    limitValue c m a = if 0 < c.c2.toInt ∧ m.seeded = true then
        max (m.word1.toInt - c.c2.toInt) (min (m.word1.toInt + c.c2.toInt) (max c.c0.toInt (min c.c1.toInt a)))
      else max c.c0.toInt (min c.c1.toInt a) := by
  unfold limitValue
  dsimp only
  rw [clamp_eq_max_min hc]
  split
  · exact clamp_eq_max_min (by omega) _
  · rfl

/-- LIMIT hands on a count where its last value is one (R5, R44, R45). -/
theorem limitValue_bounds {c : Coefs} {m : StageMem} (hc : c.c0.toInt ≤ c.c1.toInt) (h1 : -32768 ≤ m.word1.toInt)
    (h2 : m.word1.toInt ≤ 32767) (a : Int) : -32768 ≤ limitValue c m a ∧ limitValue c m a ≤ 32767 := by
  have hlo := count_bounds c.c0
  have hhi := count_bounds c.c1
  rw [limitValue_eq hc]
  split <;> omega

theorem limitMarks_iff {c : Coefs} (hc : c.c0.toInt ≤ c.c1.toInt) (m : StageMem) (a : Int) :
    limitMarks c m a = true ↔
      max c.c0.toInt (min c.c1.toInt a) ≠ a ∨ limitValue c m a ≠ max c.c0.toInt (min c.c1.toInt a) := by
  rw [limitMarks, Bool.or_eq_true, clampMarks_iff hc, clamp_eq_max_min hc, bne_iff_ne]

end Sys2Proof.Machine

open Sys2Proof.Machine

/-- Settles O53: the value LIMIT hands on is a count, so that the word it proposes is that value. -/
theorem limitClampsRangeThenRate : Obligations.LimitClampsRangeThenRate := by
  intro st c m a b hop hc h1 h2
  dsimp only
  have hv : (toCount (limitValue c m a.toInt)).toInt = limitValue c m a.toInt :=
    toInt_toCount (limitValue_bounds hc h1 h2 _)
  have hw := count_bounds (toCount (limitValue c m a.toInt))
  rw [runStage_limit c m a b hop, ← limitValue_eq hc]
  exact ⟨hv, rfl, ⟨_, rfl, (toInt_ofInt32 (by omega)).trans hv, rfl⟩, limitMarks_iff hc m _, rfl⟩
end

section
/-! SUPPORT. What ROTATE forms, on and off the quarter turns (R41, R43). -/

namespace Sys2Proof.Machine
open Sys2Proof.Laws.Trig

/-! ## The values formed -/

theorem rotateValue_zero (a b : Int) : rotateValue a b 0 = (a, b) := rfl
theorem rotateValue_quarter (a b : Int) : rotateValue a b 16384 = (b, -a) := rfl
theorem rotateValue_half (a b : Int) : rotateValue a b 32768 = (-a, -b) := rfl
theorem rotateValue_threeQuarters (a b : Int) : rotateValue a b 49152 = (-b, a) := rfl

theorem rotateValue_off {angle : Nat} (h0 : angle ≠ 0) (h1 : angle ≠ 16384) (h2 : angle ≠ 32768)
    (h3 : angle ≠ 49152) (a b : Int) :
    rotateValue a b angle =
      (withinTwo (a * (cosSin (2 * angle)).1 + b * (cosSin (2 * angle)).2) (Config.rotateFormed a b angle).1,
        withinTwo (b * (cosSin (2 * angle)).1 - a * (cosSin (2 * angle)).2) (Config.rotateFormed a b angle).2) := by
  unfold rotateValue
  split
  · exact absurd rfl h0
  · exact absurd rfl h1
  · exact absurd rfl h2
  · exact absurd rfl h3
  · rfl

/-- Off the quarter turns each value formed lies within 2½ counts of the exact one, to the 2^-50 of the fixed-point
sines and cosines (R41). -/
theorem rotateValue_close_off {angle : Nat} (h0 : angle ≠ 0) (h1 : angle ≠ 16384) (h2 : angle ≠ 32768)
    (h3 : angle ≠ 49152) (a b : Count) {θ : ℝ} (hθ : θ = Real.pi * (2 * angle : ℕ) / 65536) :
    |((rotateValue a.toInt b.toInt angle).1 : ℝ) - (a.toInt * Real.cos θ + b.toInt * Real.sin θ)| ≤ 5 / 2 + 1 / 2 ^ 50
      ∧ |((rotateValue a.toInt b.toInt angle).2 : ℝ) - (b.toInt * Real.cos θ - a.toInt * Real.sin θ)|
        ≤ 5 / 2 + 1 / 2 ^ 50 := by
  rw [rotateValue_off h0 h1 h2 h3, hθ]
  obtain ⟨ha, hb⟩ := turned_close a b (2 * angle)
  exact ⟨(abs_sub_le _ _ _).trans (add_le_add (withinTwo_close _ _) ha),
    (abs_sub_le _ _ _).trans (add_le_add (withinTwo_close _ _) hb)⟩

/-- At every angle each value formed lies within the tolerance of the exact one (R41, R43). -/
theorem rotateValue_close (a b : Count) (angle : Nat) :
    let θ : ℝ := 2 * Real.pi * angle / 65536
    |((rotateValue a.toInt b.toInt angle).1 : ℝ) - (a.toInt * Real.cos θ + b.toInt * Real.sin θ)| ≤ 5 / 2 + 1 / 2 ^ 45
      ∧ |((rotateValue a.toInt b.toInt angle).2 : ℝ) - (b.toInt * Real.cos θ - a.toInt * Real.sin θ)|
        ≤ 5 / 2 + 1 / 2 ^ 45 := by
  intro θ
  have hexact (v : Int) (x : ℝ) (h : (v : ℝ) = x) : |(v : ℝ) - x| ≤ 5 / 2 + 1 / 2 ^ 45 := by
    rw [h, sub_self, abs_zero]
    positivity
  by_cases h0 : angle = 0
  · have hθ : θ = 0 := by simp [θ, h0]
    rw [h0, rotateValue_zero, hθ, Real.cos_zero, Real.sin_zero]
    exact ⟨hexact _ _ (by ring), hexact _ _ (by ring)⟩
  by_cases h1 : angle = 16384
  · have hθ : θ = Real.pi / 2 := by simp only [θ, h1]; push_cast; ring
    rw [h1, rotateValue_quarter, hθ, Real.cos_pi_div_two, Real.sin_pi_div_two]
    exact ⟨hexact _ _ (by ring), hexact _ _ (by push_cast; ring)⟩
  by_cases h2 : angle = 32768
  · have hθ : θ = Real.pi := by simp only [θ, h2]; push_cast; ring
    rw [h2, rotateValue_half, hθ, Real.cos_pi, Real.sin_pi]
    exact ⟨hexact _ _ (by push_cast; ring), hexact _ _ (by push_cast; ring)⟩
  by_cases h3 : angle = 49152
  · have hθ : θ = Real.pi / 2 + Real.pi := by simp only [θ, h3]; push_cast; ring
    rw [h3, rotateValue_threeQuarters, hθ, Real.cos_add_pi, Real.sin_add_pi, Real.cos_pi_div_two,
      Real.sin_pi_div_two]
    exact ⟨hexact _ _ (by push_cast; ring), hexact _ _ (by ring)⟩
  obtain ⟨ha, hb⟩ := rotateValue_close_off h0 h1 h2 h3 a b (θ := θ) (by simp only [θ]; push_cast; ring)
  have htol : (5 : ℝ) / 2 + 1 / 2 ^ 50 ≤ 5 / 2 + 1 / 2 ^ 45 := by norm_num
  exact ⟨ha.trans htol, hb.trans htol⟩

/-! ## A count negated and clamped (R43) -/

/-- Of the negated counts only that of −32 768 leaves the count range. -/
theorem toCount_sat16_neg (c : Count) : toCount (sat16 (-c.toInt)) = if c = 0x8000 then 0x7FFF else -c := by
  split
  · next h => rw [h]; rfl
  · next h =>
    have hb := count_bounds c
    have hne : c.toInt ≠ -32768 := fun he => h (BitVec.eq_of_toInt_eq he)
    rw [sat16, clamp_of_mem (by omega), toCount, BitVec.ofInt_neg, BitVec.ofInt_toInt]

theorem satMarks_neg (c : Count) : satMarks (-c.toInt) = (c == 0x8000) := by
  have hb := count_bounds c
  rw [Bool.eq_iff_iff, satMarks_iff_out, beq_iff_eq, ← BitVec.toInt_inj]
  change _ ↔ c.toInt = -32768
  omega

end Sys2Proof.Machine
end

section
/-! SUPPORT. What ATAN forms, on and off the axes (R42, R43). -/

namespace Sys2Proof.Machine
open Sys2Proof.Laws.Trig

/-! ## The values formed -/

theorem atanValue_origin : atanValue 0 0 = (0, 0) := rfl

theorem atanValue_right {x : Int} (h : 0 < x) : atanValue x 0 = (x, 0) := by
  simp [atanValue, h, h.ne']

theorem atanValue_left {x : Int} (h : x < 0) : atanValue x 0 = (-x, 32768) := by
  simp [atanValue, h.ne, h.le]

theorem atanValue_up {y : Int} (h : 0 < y) : atanValue 0 y = (y, 16384) := by
  simp [atanValue, h, h.ne']

theorem atanValue_down {y : Int} (h : y < 0) : atanValue 0 y = (-y, 49152) := by
  simp [atanValue, h.ne, h.le]

/-- The angle of a vector to the nearest count, before its tolerance (R42). -/
def angleFormed (x y : Int) : Int :=
  16384 * (firstQuarter x y).1 + angleSearch (firstQuarter x y).2.1 (firstQuarter x y).2.2 14 0

theorem atanValue_off {x y : Int} (hx : x ≠ 0) (hy : y ≠ 0) :
    atanValue x y =
      (clamp (magnitudeExact x y - 2) (magnitudeExact x y + 2) (Config.atanFormed x y).1,
        clamp (angleFormed x y - 2) (angleFormed x y + 2) (Config.atanFormed x y).2) := by
  simp [atanValue, hx, hy, angleFormed]

/-- What is held within two of an integer near a value lies near that value. -/
theorem clamp_two_close {m : Int} {v e : ℝ} (h : |(m : ℝ) - v| ≤ e) (formed : Int) :
    |(clamp (m - 2) (m + 2) formed : ℝ) - v| ≤ 2 + e := by
  have hb := clamp_bounds (show m - 2 ≤ m + 2 by omega) formed
  have hm : |((clamp (m - 2) (m + 2) formed : Int) : ℝ) - (m : ℝ)| ≤ 2 := by
    exact_mod_cast abs_le.2 ⟨by omega, by omega⟩
  exact (abs_sub_le _ _ _).trans (add_le_add hm h)

/-! ## The angle -/

theorem firstQuarter_le {x y : Int} (hx : |x| ≤ 32768) (hy : |y| ≤ 32768) :
    (firstQuarter x y).2.1 ≤ 32768 ∧ (firstQuarter x y).2.2 ≤ 32768 := by
  rw [abs_le] at hx hy
  unfold firstQuarter
  split
  · exact ⟨hx.2, hy.2⟩
  · split
    · exact ⟨hy.2, by dsimp only; omega⟩
    · split <;> exact ⟨by dsimp only; omega, by dsimp only; omega⟩

/-- Turning a vector back by quarter turns takes as many right angles off its angle, modulo whole turns. -/
theorem arg_firstQuarter {x y : Int} (h : x ≠ 0 ∨ y ≠ 0) :
    ∃ n : Int, Complex.arg ⟨x, y⟩ = Complex.arg ⟨(firstQuarter x y).2.1, (firstQuarter x y).2.2⟩
      + (firstQuarter x y).1 * (Real.pi / 2) + 2 * Real.pi * n := by
  obtain ⟨-, hu, -, hz⟩ := firstQuarter_spec x y h
  generalize firstQuarter x y = q at hu hz ⊢
  have hw : (⟨q.2.1, q.2.2⟩ : ℂ) ≠ 0 := fun e => by
    have hre : ((q.2.1 : Int) : ℝ) = 0 := congrArg Complex.re e
    exact hu.ne' (by exact_mod_cast hre)
  have hprod : (⟨x, y⟩ : ℂ) = Complex.I ^ q.1 * ⟨q.2.1, q.2.2⟩ := by
    rw [Complex.mk_eq_add_mul_I, Complex.mk_eq_add_mul_I]
    exact_mod_cast hz
  have hangle : ((Complex.arg ⟨x, y⟩ : ℝ) : Real.Angle)
      = ((Complex.arg ⟨q.2.1, q.2.2⟩ + q.1 * (Real.pi / 2) : ℝ) : Real.Angle) := by
    rw [hprod, Complex.arg_mul_coe_angle (pow_ne_zero _ Complex.I_ne_zero) hw, Complex.arg_pow_coe_angle,
      Complex.arg_I, add_comm, ← Real.Angle.coe_nsmul, nsmul_eq_mul, ← Real.Angle.coe_add]
  obtain ⟨n, hn⟩ := Real.Angle.angle_eq_iff_two_pi_dvd_sub.1 hangle
  exact ⟨n, by linarith⟩

/-- The angle of a vector of the first quarter turn, found bit by bit (R42). -/
theorem angleSearch_close_arg {u v : Int} (hu0 : 0 < u) (hv0 : 0 ≤ v) (hu : u ≤ 32768) (hv : v ≤ 32768) :
    |(angleSearch u v 14 0 : ℝ) - 65536 * Complex.arg ⟨u, v⟩ / (2 * Real.pi)| ≤ 1 / 2 + 1 / 2 ^ 32 := by
  have hu0' : (1 : ℝ) ≤ u := by exact_mod_cast hu0
  have hv0' : (0 : ℝ) ≤ v := by exact_mod_cast hv0
  have hnorm : (1 : ℝ) ≤ ‖(⟨u, v⟩ : ℂ)‖ :=
    hu0'.trans ((le_abs_self _).trans (Complex.abs_re_le_norm ⟨(u : ℝ), (v : ℝ)⟩))
  exact angleSearch_close u v hu0 hv0 hu hv _ _ hnorm (Complex.norm_mul_cos_arg ⟨u, v⟩).symm
    (Complex.norm_mul_sin_arg ⟨u, v⟩).symm (Complex.arg_nonneg_iff.2 hv0')
    (Complex.arg_lt_pi_div_two_iff.2 (.inl (by change (0 : ℝ) < u; linarith)))

/-- The angle before its tolerance is the exact one to the nearest count, modulo whole turns (R42). -/
theorem angleFormed_close {x y : Int} (h : x ≠ 0 ∨ y ≠ 0) (hx : |x| ≤ 32768) (hy : |y| ≤ 32768) :
    ∃ turns : Int, |(angleFormed x y : ℝ) - (65536 * turns + 65536 * Complex.arg ⟨x, y⟩ / (2 * Real.pi))|
      ≤ 1 / 2 + 1 / 2 ^ 32 := by
  obtain ⟨n, hn⟩ := arg_firstQuarter h
  obtain ⟨-, hu0, hv0, -⟩ := firstQuarter_spec x y h
  obtain ⟨hu, hv⟩ := firstQuarter_le hx hy
  refine ⟨-n, le_of_eq_of_le (congrArg abs ?_) (angleSearch_close_arg hu0 hv0 hu hv)⟩
  rw [hn, angleFormed]
  have hp := Real.pi_ne_zero
  push_cast
  field_simp
  ring

/-! ## The accuracy of R42 -/

/-- A magnitude and an angle within the tolerance of R42 of those of the vector (x, y), the angle modulo whole turns. -/
def AtanClose (x y : Int) (p : Int × Int) : Prop :=
  |(p.1 : ℝ) - Real.sqrt ((x : ℝ) ^ 2 + (y : ℝ) ^ 2)| ≤ 5 / 2
  ∧ ∃ turns : Int, |(p.2 : ℝ) - 65536 * turns - 65536 * Complex.arg ⟨x, y⟩ / (2 * Real.pi)| ≤ 5 / 2 + 1 / 2 ^ 32

/-- The exact magnitude and angle are within the tolerance. -/
theorem AtanClose.of_exact {x y v g : Int} (hv : 0 ≤ v) (hsq : v ^ 2 = x ^ 2 + y ^ 2) (turns : Int)
    (hg : Complex.arg ⟨x, y⟩ = (g - 65536 * turns) * (2 * Real.pi) / 65536) : AtanClose x y (v, g) := by
  have hv' : (0 : ℝ) ≤ v := by exact_mod_cast hv
  have hsq' : (x : ℝ) ^ 2 + (y : ℝ) ^ 2 = (v : ℝ) ^ 2 := by exact_mod_cast hsq.symm
  have hp := Real.pi_ne_zero
  refine ⟨?_, turns, ?_⟩
  · rw [hsq', Real.sqrt_sq hv', sub_self, abs_zero]
    positivity
  · have he : (g : ℝ) - 65536 * turns - 65536 * Complex.arg ⟨x, y⟩ / (2 * Real.pi) = 0 := by
      rw [hg]
      field_simp
      ring
    rw [he, abs_zero]
    positivity

theorem atanClose_x_axis (x : Int) : AtanClose x 0 (atanValue x 0) := by
  rcases lt_trichotomy x 0 with h | rfl | h
  · have harg : Complex.arg ⟨(x : ℝ), ((0 : Int) : ℝ)⟩ = Real.pi :=
      Complex.arg_eq_pi_iff.2 ⟨Int.cast_lt_zero.2 h, Int.cast_zero⟩
    rw [atanValue_left h]
    exact .of_exact (by omega) (by ring) 0 (by rw [harg]; push_cast; ring)
  · have harg : Complex.arg ⟨((0 : Int) : ℝ), ((0 : Int) : ℝ)⟩ = 0 := Complex.arg_eq_zero_iff.2 ⟨by simp, by simp⟩
    exact .of_exact le_rfl rfl 0 (by rw [harg]; simp)
  · have harg : Complex.arg ⟨(x : ℝ), ((0 : Int) : ℝ)⟩ = 0 :=
      Complex.arg_eq_zero_iff.2 ⟨Int.cast_nonneg h.le, Int.cast_zero⟩
    rw [atanValue_right h]
    exact .of_exact h.le (by ring) 0 (by rw [harg]; simp)

theorem atanClose_y_axis {y : Int} (hy : y ≠ 0) : AtanClose 0 y (atanValue 0 y) := by
  rcases lt_or_gt_of_ne hy with h | h
  · have harg : Complex.arg ⟨((0 : Int) : ℝ), (y : ℝ)⟩ = -(Real.pi / 2) :=
      Complex.arg_eq_neg_pi_div_two_iff.2 ⟨Int.cast_zero, Int.cast_lt_zero.2 h⟩
    rw [atanValue_down h]
    exact .of_exact (by omega) (by ring) 1 (by rw [harg]; push_cast; ring)
  · have harg : Complex.arg ⟨((0 : Int) : ℝ), (y : ℝ)⟩ = Real.pi / 2 :=
      Complex.arg_eq_pi_div_two_iff.2 ⟨Int.cast_zero, Int.cast_pos.2 h⟩
    rw [atanValue_up h]
    exact .of_exact h.le (by ring) 0 (by rw [harg]; push_cast; ring)

theorem atanClose_off (a b : Count) (ha : a.toInt ≠ 0) (hb : b.toInt ≠ 0) :
    AtanClose a.toInt b.toInt (atanValue a.toInt b.toInt) := by
  have hx := count_bounds a
  have hy := count_bounds b
  obtain ⟨turns, hturns⟩ := angleFormed_close (.inl ha) (abs_le.2 ⟨hx.1, by omega⟩) (abs_le.2 ⟨hy.1, by omega⟩)
  rw [atanValue_off ha hb]
  refine ⟨(clamp_two_close (magnitudeExact_close a b) _).trans (by norm_num), turns, ?_⟩
  rw [sub_sub]
  exact (clamp_two_close hturns _).trans (by norm_num)

/-- At every vector the magnitude and angle formed lie within the tolerance of the exact ones (R42, R43). -/
theorem atanValue_close (a b : Count) : AtanClose a.toInt b.toInt (atanValue a.toInt b.toInt) := by
  by_cases hb : b.toInt = 0
  · rw [hb]
    exact atanClose_x_axis _
  by_cases ha : a.toInt = 0
  · rw [ha]
    exact atanClose_y_axis hb
  exact atanClose_off a b ha hb

/-- A magnitude within the tolerance is -2 or more, so that it leaves the count range only upward (R42). -/
theorem AtanClose.satMarks_iff {x y : Int} {p : Int × Int} (h : AtanClose x y p) :
    satMarks p.1 = true ↔ 32767 < p.1 := by
  have hlow : (-3 : ℝ) < p.1 := by
    have := Real.sqrt_nonneg ((x : ℝ) ^ 2 + (y : ℝ) ^ 2)
    have := (abs_le.1 h.1).1
    linarith
  have hlow' : -3 < p.1 := by exact_mod_cast hlow
  rw [satMarks_iff_out]
  omega

end Sys2Proof.Machine
end

section
/-! SUPPORT. ROTATE and ATAN as stages: the accuracy and the exact cases (R41 to R43). -/

namespace Sys2Proof.Machine

theorem stageRotate_of_value {c : Coefs} {a b : Count} {angle : Nat} {v w : Int} (hc : c.c0.toNat = angle)
    (h : rotateValue a.toInt b.toInt angle = (v, w)) :
    stageRotate c a b = ⟨toCount (sat16 v), toCount (sat16 w), none, satMarks v || satMarks w, false⟩ := by
  simp [stageRotate, hc, h]

theorem stageAtan_of_value {a b : Count} {x y v g : Int} (ha : a.toInt = x) (hb : b.toInt = y)
    (h : atanValue x y = (v, g)) :
    stageAtan a b = ⟨toCount (sat16 v), toCount g, none, satMarks v, false⟩ := by
  simp [stageAtan, ha, hb, h]

/-- ROTATE by no, one, two and three quarter turns (R43). -/
theorem stageRotate_exact (c : Coefs) (a b : Count) :
    let n (x : Count) : Count := if x = 0x8000 then 0x7FFF else -x
    let lost (x : Count) : Bool := x == 0x8000
    (c.c0 = 0 → stageRotate c a b = ⟨a, b, none, false, false⟩)
    ∧ (c.c0 = 0x4000 → stageRotate c a b = ⟨b, n a, none, lost a, false⟩)
    ∧ (c.c0 = 0x8000 → stageRotate c a b = ⟨n a, n b, none, lost a || lost b, false⟩)
    ∧ (c.c0 = 0xC000 → stageRotate c a b = ⟨n b, a, none, lost b, false⟩) := by
  dsimp only
  simp only [← toCount_sat16_neg, ← satMarks_neg]
  refine ⟨fun h => ?_, fun h => ?_, fun h => ?_, fun h => ?_⟩
  · rw [stageRotate_of_value (by rw [h]; rfl) (rotateValue_zero _ _)]
    simp
  · rw [stageRotate_of_value (by rw [h]; rfl) (rotateValue_quarter _ _)]
    simp
  · rw [stageRotate_of_value (by rw [h]; rfl) (rotateValue_half _ _)]
  · rw [stageRotate_of_value (by rw [h]; rfl) (rotateValue_threeQuarters _ _)]
    simp

/-- ATAN at the origin and on the four half axes (R43). -/
theorem stageAtan_exact (a b : Count) :
    let n (x : Count) : Count := if x = 0x8000 then 0x7FFF else -x
    let lost (x : Count) : Bool := x == 0x8000
    (a = 0 → b = 0 → stageAtan a b = ⟨0, 0, none, false, false⟩)
    ∧ (b = 0 → 0 < a.toInt → stageAtan a b = ⟨a, 0, none, false, false⟩)
    ∧ (a = 0 → 0 < b.toInt → stageAtan a b = ⟨b, 0x4000, none, false, false⟩)
    ∧ (b = 0 → a.toInt < 0 → stageAtan a b = ⟨n a, 0x8000, none, lost a, false⟩)
    ∧ (a = 0 → b.toInt < 0 → stageAtan a b = ⟨n b, 0xC000, none, lost b, false⟩) := by
  dsimp only
  simp only [← toCount_sat16_neg, ← satMarks_neg]
  refine ⟨?_, ?_, ?_, ?_, ?_⟩
  · rintro rfl rfl
    exact stageAtan_of_value BitVec.toInt_zero BitVec.toInt_zero atanValue_origin
  · rintro rfl h
    refine (stageAtan_of_value rfl BitVec.toInt_zero (atanValue_right h)).trans ?_
    rw [toCount_sat16_toInt, satMarks_toInt]
    rfl
  · rintro rfl h
    refine (stageAtan_of_value BitVec.toInt_zero rfl (atanValue_up h)).trans ?_
    rw [toCount_sat16_toInt, satMarks_toInt]
    rfl
  · rintro rfl h
    exact stageAtan_of_value rfl BitVec.toInt_zero (atanValue_left h)
  · rintro rfl h
    exact stageAtan_of_value BitVec.toInt_zero rfl (atanValue_down h)

end Sys2Proof.Machine

open Sys2Proof.Machine

/-- Settles O54: the values formed keep the accuracy of R41 and R42 on and off the exact cases, and the clamps, the
marks and the cases of R43 are read off the values formed. -/
theorem rotateAndAtanExactCases : Obligations.RotateAndAtanExactCases := by
  intro st c m a b
  dsimp only
  refine ⟨fun hop => ?_, fun hop => ?_, fun st' c' m' hop' hsame => ?_, fun hop => ?_, fun hop => ?_⟩
  · obtain ⟨hv, hw⟩ := rotateValue_close a b c.c0.toNat
    rw [runStage_rotate c m a b hop]
    refine ⟨_, _, hv, hw, toInt_toCount_sat16 _, toInt_toCount_sat16 _, ?_, rfl, rfl⟩
    rw [← satMarks_iff, ← satMarks_iff]
    exact Bool.or_eq_true_iff
  · obtain ⟨hv, turns, hg⟩ := atanValue_close a b
    rw [runStage_atan c m a b hop]
    exact ⟨_, _, turns, hv, hg, toInt_toCount_sat16 _, rfl, (atanValue_close a b).satMarks_iff, rfl, rfl⟩
  · rcases hsame with ⟨hop, hc0⟩ | hop
    · rw [runStage_rotate c m a b hop, runStage_rotate c' m' a b (hop'.trans hop), stageRotate, hc0, stageRotate]
    · rw [runStage_atan c m a b hop, runStage_atan c' m' a b (hop'.trans hop)]
  · rw [runStage_rotate c m a b hop]
    exact stageRotate_exact c a b
  · rw [runStage_atan c m a b hop]
    exact stageAtan_exact a b
end

section
/-! SUPPORT. A good frame of a request kind: what its arrival does, and that its request is then handled as its row
says (R158, R159). -/

namespace Sys2Proof.Machine

/-! ## The link error count -/

theorem ReportEntry.holdsRsn_eq (e : ReportEntry) : e.holdsRsn = (e.state != .queued) := by
  cases h : e.state <;> simp [ReportEntry.holdsRsn, EntryState.rsn?, h]

theorem ReportUnit.muteExit_eq (u : ReportUnit) : u.muteExit = { u with
    retryTimer := if 0 < u.store.countP (fun e => e.state != .queued) then some u.retryTimeout else u.retryTimer } := by
  have hcount : u.holding = u.store.countP fun e => e.state != .queued := List.countP_congr fun e _ => by
    rw [ReportEntry.holdsRsn_eq]
  unfold ReportUnit.muteExit
  rw [hcount]
  split <;> rfl

/-- A change of the LEC, row by row of the table of R164. -/
theorem changeLec_eq_lecBecomes (s : State) {n : Nat} (h : n < 256) :
    s.changeLec (BitVec.ofNat 8 n) = s.lecBecomes n := by
  have hn : (BitVec.ofNat 8 n).toNat = n := Nat.mod_eq_of_lt h
  have hrange : n ≤ 63 ∨ (¬n ≤ 63 ∧ n ≤ 127) ∨ (¬n ≤ 63 ∧ ¬n ≤ 127) := by omega
  unfold State.changeLec State.lecBecomes judgeLink
  rw [hn]
  cases hstate : s.link.state with
  | ok | warn => rcases hrange with h | ⟨h, h'⟩ | ⟨h, h'⟩ <;> simp [*]
  | mute =>
    by_cases h : n ≤ 63
    · simp only [h, if_true, ReportUnit.muteExit_eq]
    · simp [h]

/-! ## The arrival -/

/-- The arrival of a good frame that is no overrun (R158, R163). -/
theorem arrive_eq_goodArrival {s : State} {kind : Byte} (h : s.overrunBy kind = false) :
    s.arrive kind = s.goodArrival := by
  have hle := s.link.lec.isLt
  unfold State.arrive State.goodArrival
  rw [← changeLec_eq_lecBecomes _ (by omega)]
  simp only [h]
  rfl

theorem settleChoice_ctl (s : State) : s.settleChoice.ctl = s.ctl := by
  obtain ⟨cu, ls, h⟩ := settleChoice_only s
  rw [h]

theorem claimSafe_resetPending (s : State) (c : SafeCause) : (s.claimSafe c).ctl.resetPending = s.ctl.resetPending := by
  unfold State.claimSafe
  split
  · rfl
  · dsimp only
    obtain ⟨u, ls, h⟩ := eachLoop_only (fun i t => t.holdForSafe i) (fun i t => holdForSafe_only t i)
      (State.offerEngine { s with ctl := { s.ctl with mode := .safe, safeCause := c, safeN := .low } }
        (.safeEntered c))
    rw [settleChoice_ctl, h]
    rfl

theorem changeLec_resetPending (s : State) (lec : BitVec 8) :
    (s.changeLec lec).ctl.resetPending = s.ctl.resetPending := by
  unfold State.changeLec
  dsimp only
  split
  · rfl
  · rfl
  · rfl
  · exact claimSafe_resetPending _ _
  · exact claimSafe_resetPending _ _
  · rfl

/-- A good frame's arrival leaves the dispatcher as it found it. -/
theorem goodArrival_accepting {s : State} (h : s.Accepting) : s.goodArrival.Accepting := by
  obtain ⟨hpower, hslots, hresponses, hpending⟩ := h
  have hle := s.link.lec.isLt
  have hkept := changeLec_resetPending s.frameArrived (BitVec.ofNat 8 (s.link.lec.toNat - 1))
  obtain ⟨k, ls, u, cu, hchange⟩ := changeLec_only s.frameArrived (BitVec.ofNat 8 (s.link.lec.toNat - 1))
  unfold State.goodArrival
  rw [← changeLec_eq_lecBecomes _ (by omega)]
  rw [hchange] at hkept ⊢
  exact ⟨hpower, hslots, hresponses, hkept.trans hpending⟩

/-- A good frame of a kind placed in a slot, with a slot free for it (R158, R159). -/
theorem exec_goodFrame {s : State} (h : s.Receiving) {kind : Byte} (hkind : kind ≠ reportAckKind)
    (hslots : s.link.slots.length < 4) (tag : Byte) (p : List Byte) :
    exec (.goodFrame kind tag p) s = .next (s.goodArrival.submit kind tag p).transmit := by
  obtain ⟨hpower, hrxd⟩ := h
  have hover : s.overrunBy kind = false := 
    Bool.and_eq_false_iff.2 (.inr (decide_eq_false (Nat.not_le.2 hslots)))
  have hexec : exec (.goodFrame kind tag p) s = s.whenTaking fun t => t.goodFrame kind tag p := rfl
  have htakes : s.takesBytes = true := by simp [State.takesBytes, hrxd]
  rw [hexec, State.whenTaking, State.whenRunning, if_pos hpower, if_pos htakes, State.goodFrame, if_neg hkind,
    arrive_eq_goodArrival hover]

/-- A good frame whose request the dispatcher takes in the event that brings it (R158, R171). -/
theorem exec_goodFrame_accepting {s : State} (h : s.Accepting) (hr : s.Receiving) {kind : Byte}
    (hkind : kind ≠ reportAckKind) (tag : Byte) (p : List Byte) :
    exec (.goodFrame kind tag p) s = .next
      ((judge ⟨kind, tag, p⟩ s.goodArrival).1.reply (responseKind kind) tag (judge ⟨kind, tag, p⟩ s.goodArrival).2
        (answersReset ⟨kind, tag, p⟩)).transmit := by
  have harrived := goodArrival_accepting h
  obtain ⟨-, hslots, -, -⟩ := h
  rw [exec_goodFrame hr hkind (by rw [hslots]; decide), submit_accepting harrived]

end Sys2Proof.Machine
end

section
/-! SUPPORT. LOAD_COEF and COMMIT_COEF: their checks in order, and what each writes (R54 to R59). -/

namespace Sys2Proof.Machine

/-! ## LOAD_COEF -/

/-- A LOAD_COEF payload for the stage at index `k` from 0, field by field in the order of its layout (10.3). -/
def loadCoefBytes (i : LoopId) (k : Fin 4) (c : Coefs) : List Byte := [natByte i, natByte ((k : Nat) + 1)] ++ c.toBytes

theorem loadCoefBytes_length (i : LoopId) (k : Fin 4) (c : Coefs) : (loadCoefBytes i k c).length = 10 := rfl

theorem loadCoefBytes_loop (i : LoopId) (k : Fin 4) (c : Coefs) :
    loopOfByte (byteAt (loadCoefBytes i k c) 0) = some i := loopOfByte_natByte i

theorem loadCoefBytes_index (i : LoopId) (k : Fin 4) (c : Coefs) :
    (byteAt (loadCoefBytes i k c) 1).toNat = (k : Nat) + 1 := natByte_toNat (by omega)

theorem loadCoefBytes_coefs (i : LoopId) (k : Fin 4) (c : Coefs) : coefsAt (loadCoefBytes i k c) 2 = c :=
  congr (congr (congrArg₂ Coefs.mk (extract_append_16 c.c0) (extract_append_16 c.c1)) (extract_append_16 c.c2))
    (extract_append_16 c.c3)

/-- The checks of R54 that depend on the definition: a stage of the program, and words its op accepts. -/
theorem loadLegal_iff (d : Definition) (k : Nat) (c : Coefs) :
    loadLegal d (k + 1) c = true ↔ ∃ st, d.stages[k]? = some st ∧ LegalCoefs st.op c := by
  unfold loadLegal
  rw [Nat.add_sub_cancel]
  cases d.stages[k]? with
  | none => simp
  | some st => simp [coefsLegal_iff]

/-- The write of LOAD_COEF reaches the named stage of the pending bank alone (R55). -/
theorem LoopEntry.loadCoef_eq (l : LoopEntry) (k : Fin 4) (c : Coefs) :
    l.loadCoef ((k : Nat) + 1) c = { l with pendingBank := l.pendingBank.set k c } := by
  have hset : l.pendingBank.setIfInBounds k c = l.pendingBank.set k c := by
    ext1 j hj
    rw [Vector.getElem_setIfInBounds, Vector.getElem_set]
  rw [LoopEntry.loadCoef, Nat.add_sub_cancel, hset]

/-- A loop or a stage index no loop has (R54). -/
theorem reqLoadCoef_badField {p : List Byte} (hlen : p.length = 10)
    (h : 15 < (byteAt p 0).toNat ∨ byteAt p 1 = 0 ∨ 4 < (byteAt p 1).toNat) (s : State) :
    reqLoadCoef p s = refuse s .badField := by
  unfold reqLoadCoef
  rw [if_neg (not_not.2 hlen)]
  dsimp only
  cases hi : loopOfByte (byteAt p 0) with
  | none => rfl
  | some i =>
    have hle : ¬15 < (byteAt p 0).toNat := fun hb => by
      rw [loopOfByte_eq_none.2 hb] at hi
      cases hi
    have hindex : (byteAt p 1).toNat = 0 ∨ 4 < (byteAt p 1).toNat := by
      rcases h with h | h | h
      · exact absurd h hle
      · exact .inl (by rw [h]; rfl)
      · exact .inr h
    exact if_pos hindex

section

variable {s : State} {i : LoopId} (k : Fin 4) (c : Coefs)

theorem reqLoadCoef_undefined (h : (s.loop i).definition = none) :
    reqLoadCoef (loadCoefBytes i k c) s = refuse s .badLoop := by
  unfold reqLoadCoef
  rw [if_neg (not_not.2 (loadCoefBytes_length i k c)), loadCoefBytes_loop, loadCoefBytes_index]
  dsimp only
  rw [if_neg (by omega), h]

/-- A stage index and words for a loop with a definition: the program and the op are checked, then the commit-pending
flag, and then the words are written (R54, R55). -/
theorem reqLoadCoef_defined {d : Definition} (h : (s.loop i).definition = some d) :
    reqLoadCoef (loadCoefBytes i k c) s =
      if loadLegal d ((k : Nat) + 1) c = false then refuse s .badField
      else if (s.loop i).commitPending then refuse s .pending
      else accept (s.setLoop i { s.loop i with pendingBank := (s.loop i).pendingBank.set k c }) [] := by
  have hwrite : (s.modLoop i fun l => l.loadCoef ((k : Nat) + 1) c)
      = s.setLoop i { s.loop i with pendingBank := (s.loop i).pendingBank.set k c } :=
    congrArg (s.setLoop i) (LoopEntry.loadCoef_eq (s.loop i) k c)
  rw [← hwrite]
  unfold reqLoadCoef
  rw [if_neg (not_not.2 (loadCoefBytes_length i k c)), loadCoefBytes_loop, loadCoefBytes_index, loadCoefBytes_coefs]
  dsimp only
  rw [if_neg (by omega), h]

theorem reqLoadCoef_illegal {d : Definition} (h : (s.loop i).definition = some d)
    (hnot : ¬∃ st, d.stages[(k : Nat)]? = some st ∧ LegalCoefs st.op c) :
    reqLoadCoef (loadCoefBytes i k c) s = refuse s .badField := by
  rw [reqLoadCoef_defined k c h, if_pos (Bool.eq_false_iff.2 (mt (loadLegal_iff d k c).1 hnot))]

theorem reqLoadCoef_legal {d : Definition} (h : (s.loop i).definition = some d) {st : StageDesc}
    (hst : d.stages[(k : Nat)]? = some st) (hwords : LegalCoefs st.op c) :
    reqLoadCoef (loadCoefBytes i k c) s =
      if (s.loop i).commitPending then refuse s .pending
      else accept (s.setLoop i { s.loop i with pendingBank := (s.loop i).pendingBank.set k c }) [] := by
  rw [reqLoadCoef_defined k c h, if_neg (by simp [(loadLegal_iff d k c).2 ⟨st, hst, hwords⟩])]

end

/-! ## COMMIT_COEF -/

theorem LoopEntry.apply_eq (l : LoopEntry) : l.apply =
    if l.state = .active then { l with commitPending := true }
    else { l with activeBank := l.pendingBank, commitPending := false } := by
  unfold LoopEntry.apply
  cases l.state <;> rfl

/-- COMMIT_COEF whose named loops all have a definition is one change of every named entry by its own (R56). -/
theorem commit_taken {s : State} {m : LoopMask} (hm : m ≠ 0)
    (h : ∀ i, names m i = true → (s.loop i).state ≠ .empty) (f : LoopEntry → LoopEntry) :
    s.commit m f = acceptMask { s with
      loops := Vector.ofFn fun i : LoopId => if names m i then f (s.loop i) else s.loop i } := by
  have hpass : maskRefusal (fun i => checkDefined (s.loop i)) m = none :=
    maskRefusal_passed fun i hi => if_neg (h i hi)
  unfold State.commit
  rw [if_neg hm, hpass]
  dsimp only
  rw [eachNamed_modLoop]

/-- COMMIT_COEF by its action byte (R56, 10.2). -/
theorem reqCommitCoef_action (m : LoopMask) (s : State) :
    reqCommitCoef (bytes16 m ++ [0x00]) s = s.commit m LoopEntry.apply
      ∧ reqCommitCoef (bytes16 m ++ [0x01]) s = s.commit m LoopEntry.discard
      ∧ ∀ b : Byte, 1 < b.toNat → reqCommitCoef (bytes16 m ++ [b]) s = refuseMask s .badField 0 := by
  have hm : ∀ b : Byte, word16At (bytes16 m ++ [b]) 0 = m := fun b => word16At_bytes16 m [b]
  refine ⟨?_, ?_, fun b hb => ?_⟩
  · exact congrArg (s.commit · LoopEntry.apply) (hm 0x00)
  · exact congrArg (s.commit · LoopEntry.discard) (hm 0x01)
  · have hbyte : byteAt (bytes16 m ++ [b]) 2 = b := rfl
    unfold reqCommitCoef
    rw [if_neg (by simp [bytes16]), hbyte]
    split
    · omega
    · omega
    · rfl

end Sys2Proof.Machine

open Sys2Proof Sys2Proof.Machine

/-- Settles O20: LOAD_COEF check by check in the order of R54, and COMMIT_COEF by its action byte, a good frame's
arrival leaving the dispatcher free to refuse one that has no row. -/
theorem coefficientsAreLoadedAndCommitted : Obligations.CoefficientsAreLoadedAndCommitted := by
  refine ⟨fun s tag i k c hs => ?_, fun s tag p hs hlen h => ?_, fun s tag action m hs hr haction => ?_,
    fun s tag m hs hm hdefined => ?_⟩
  · have hexec : exec (.loadCoef tag (loadCoefBytes i k c)) s = .next
        ((reqLoadCoef (loadCoefBytes i k c) s).1.reply 0x98 tag (reqLoadCoef (loadCoefBytes i k c) s).2) :=
      exec_loadCoef hs tag _
    refine ⟨fun h => hexec.trans ?_, fun d hd hbeyond => hexec.trans ?_, fun d st hd hst =>
      ⟨fun hwords => hexec.trans ?_, fun hwords hpending => hexec.trans ?_, fun hwords hpending => hexec.trans ?_⟩⟩
    · rw [reqLoadCoef_undefined k c h]
      rfl
    · rw [reqLoadCoef_illegal k c hd (by simp [hbeyond])]
      rfl
    · rw [reqLoadCoef_illegal k c hd (by simpa [hst] using hwords)]
      rfl
    · rw [reqLoadCoef_legal k c hd hst hwords, if_pos hpending]
      rfl
    · rw [reqLoadCoef_legal k c hd hst hwords, if_neg (by simp [hpending])]
      rfl
  · rw [exec_loadCoef hs, reqLoadCoef_badField hlen h]
    rfl
  · obtain ⟨-, -, hrefused⟩ := reqCommitCoef_action m s.goodArrival
    have hjudge : judge ⟨0x19, tag, bytes16 m ++ [action]⟩ s.goodArrival = refuseMask s.goodArrival .badField 0 :=
      hrefused action haction
    rw [exec_goodFrame_accepting hs hr (by decide), hjudge]
    rfl
  · obtain ⟨happly, hdiscard, -⟩ := reqCommitCoef_action m s
    constructor
    · rw [exec_commitCoefApply hs, happly, commit_taken hm hdefined, acceptMask_eq]
      simp only [LoopEntry.apply_eq]
    · rw [exec_commitCoefDiscard hs, hdiscard, commit_taken hm hdefined, acceptMask_eq]
      rfl
end

section
/-! SUPPORT. READ_COEF and READ_ALARMS: what each answers (R61, R123, 10.3). -/

namespace Sys2Proof.Machine

theorem bankAt_eq (b : Bank) (k : Fin 4) : bankAt b k = b[k] := by
  simp [bankAt]

/-- The sixteen words of a bank, stage by stage (10.3). -/
theorem bankBytes_eq (b : Bank) : bankBytes b = (List.finRange 4).flatMap fun k => (b[k]).toBytes := by
  have hstage : ∀ k : Fin 4, (b[k]).toBytes = (bankAt b k).toBytes := fun k => congrArg Coefs.toBytes (bankAt_eq b k).symm
  simp only [hstage]
  rfl

/-- The byte of a loop state (10.2). -/
theorem LoopState.toByte_eq (st : LoopState) : st.toByte = match st with
    | .empty => 0x00 | .idle => 0x01 | .armed => 0x02 | .active => 0x03 | .held _ => 0x04 | .faulted => 0x05 := by
  cases st <;> rfl

section

variable {s : State} {i : LoopId}

theorem reqReadCoef_bank {sel : Byte} {b : Bank} (h : (s.loop i).bank? sel = some b) :
    reqReadCoef [natByte i, sel] s = accept s ([(s.loop i).state.toByte, natByte (s.loop i).stageCount,
      boolByte (s.loop i).commitPending] ++ bankBytes b) := by
  have hsel : byteAt [natByte i, sel] 1 = sel := rfl
  unfold reqReadCoef
  rw [if_neg (by simp), byteAt_cons_zero, loopOfByte_natByte, hsel]
  dsimp only
  rw [h]

theorem LoopEntry.bank?_eq_none (l : LoopEntry) {sel : Byte} (h : 1 < sel.toNat) : l.bank? sel = none := by
  unfold LoopEntry.bank?
  split
  · omega
  · omega
  · rfl

theorem reqReadCoef_noBank {sel : Byte} (h : 1 < sel.toNat) : reqReadCoef [natByte i, sel] s = refuse s .badField := by
  have hsel : byteAt [natByte i, sel] 1 = sel := rfl
  unfold reqReadCoef
  rw [if_neg (by simp), byteAt_cons_zero, loopOfByte_natByte, hsel]
  dsimp only
  rw [LoopEntry.bank?_eq_none _ h]

theorem reqReadCoef_noLoop {b : Byte} (h : 15 < b.toNat) (sel : Byte) :
    reqReadCoef [b, sel] s = refuse s .badField := by
  unfold reqReadCoef
  rw [if_neg (by simp), byteAt_cons_zero, loopOfByte_eq_none.2 h]

end

end Sys2Proof.Machine

open Sys2Proof Sys2Proof.Machine

/-- Settles O12: each answer is the head and the parts of 10.3 in their order, and the state is the one before. -/
theorem readCoefAndReadAlarmsReturnWhatStands : Obligations.ReadCoefAndReadAlarmsReturnWhatStands := by
  refine ⟨fun s tag i sel hs => ?_, fun s tag b sel hs hb => ?_, fun s tag hs => ?_⟩
  · dsimp only
    have hbank : ∀ b, (s.loop i).bank? sel = some b → exec (.readCoef tag [natByte i, sel]) s = .next (s.reply 0x9A tag
        (0x00 :: ([(s.loop i).state.toByte, natByte (s.loop i).stageCount, boolByte (s.loop i).commitPending]
          ++ (List.finRange 4).flatMap fun k => (b[k]).toBytes))) := fun b hb => by
      rw [exec_readCoef hs, reqReadCoef_bank hb, bankBytes_eq]
      rfl
    have hcount : natByte (s.loop i).stageCount = natByte
        (match (s.loop i).definition with | none => 0 | some d => d.stages.length) := by
      unfold LoopEntry.stageCount
      cases (s.loop i).definition <;> rfl
    rw [LoopState.toByte_eq, hcount] at hbank
    refine ⟨?_, ?_, fun hsel => ?_⟩
    · rintro rfl
      exact hbank _ rfl
    · rintro rfl
      exact hbank _ rfl
    · rw [exec_readCoef hs, reqReadCoef_noBank hsel]
      rfl
  · rw [exec_readCoef hs, reqReadCoef_noLoop hb]
    rfl
  · have hlevel : s.alertN.toByte = if s.alertN = .high then 0x00 else 0x01 := by
      cases s.alertN <;> rfl
    rw [exec_readAlarms hs, ← hlevel, ← allLoops_eq_finRange]
    rfl
end

section
/-! SUPPORT. READ_SAMPLES and WRITE_SAMPLES: where each slot stands in the answer, and what the pairs of a request
write (R65, R66, R68). -/

namespace Sys2Proof.Machine

theorem slotOfByte_eq_none {b : Byte} : slotOfByte b = none ↔ 31 < b.toNat := by
  unfold slotOfByte
  split <;> simp <;> omega

/-! ## The answer of READ_SAMPLES -/

/-- The slot list that READ_SAMPLES walks through holds each slot at its number (R64). -/
theorem samples_getD (s : State) (k : SlotId) : s.samples.toList.getD k .reset = s.slot k := by
  simp [State.slot]

theorem sampleSlot_toBytes_length (x : SampleSlot) : x.toBytes.length = 7 := rfl

theorem slotBytes_length (s : State) (n k : Nat) : (slotBytes s n k).length = 7 * n := by
  induction n generalizing k with
  | zero => rfl
  | succ n ih => rw [slotBytes, List.length_append, sampleSlot_toBytes_length, ih, Nat.mul_succ, Nat.add_comm]

/-- A byte of the slot `j` places behind the first named one (R68). -/
theorem byteAt_slotBytes (s : State) {n j r : Nat} (hj : j < n) (hr : r < 7) (first : Nat) :
    byteAt (slotBytes s n first) (7 * j + r) = byteAt (s.samples.toList.getD (first + j) .reset).toBytes r := by
  induction n generalizing j first with
  | zero => exact absurd hj (Nat.not_lt_zero j)
  | succ n ih =>
    rw [slotBytes]
    cases j with
    | zero => rw [Nat.mul_zero, Nat.zero_add, byteAt_append_left (by rwa [sampleSlot_toBytes_length]), Nat.add_zero]
    | succ j =>
      have hplace : 7 * (j + 1) + r = (s.samples.toList.getD first .reset).toBytes.length + (7 * j + r) := by
        rw [sampleSlot_toBytes_length]
        omega
      rw [hplace, byteAt_append_right, ih (Nat.lt_of_succ_lt_succ hj), Nat.add_right_comm, Nat.add_assoc]

/-- A byte of slot `k` in the answer, which the result byte begins (R68, 10.3). -/
theorem byteAt_readSamples (s : State) {n j first : Nat} {k : SlotId} (hj : j < n) (hk : (k : Nat) = first + j)
    {i r : Nat} (hr : r < 7) (hi : i = 7 * j + r + 1) :
    byteAt (0x00 :: slotBytes s n first) i = byteAt (s.slot k).toBytes r := by
  rw [hi, byteAt_cons_succ, byteAt_slotBytes s hj hr, ← hk, samples_getD]

section

variable (s : State) (first n : Byte)

theorem reqReadSamples_badField
    (h : 31 < first.toNat ∨ n = 0 ∨ 32 < n.toNat ∨ 32 < first.toNat + n.toNat) :
    reqReadSamples [first, n] s = refuse s .badField := by
  have hn : n = 0 → n.toNat = 0 := congrArg BitVec.toNat
  exact if_pos (h.imp_right (Or.imp_left hn))

theorem reqReadSamples_taken (hfirst : first.toNat ≤ 31) (hn : n ≠ 0) (hlast : first.toNat + n.toNat ≤ 32) :
    reqReadSamples [first, n] s = accept s (slotBytes s n.toNat first.toNat) := by
  have hn0 : n.toNat ≠ 0 := fun h => hn (BitVec.eq_of_toNat_eq h)
  exact if_neg (show ¬(31 < first.toNat ∨ n.toNat = 0 ∨ 32 < n.toNat ∨ 32 < first.toNat + n.toNat) by omega)

end

/-! ## The pairs of WRITE_SAMPLES -/

/-- The three bytes of a pair (10.3). -/
def pairBytes (q : SlotId × Count) : List Byte := natByte q.1 :: bytes16 q.2

theorem pairBytes_length (q : SlotId × Count) : (pairBytes q).length = 3 := rfl

theorem writeSamplesBytes_eq (pairs : List (SlotId × Count)) :
    writeSamplesBytes pairs = [natByte pairs.length] ++ pairs.flatMap pairBytes := rfl

theorem flatMap_pairBytes_length (pairs : List (SlotId × Count)) :
    (pairs.flatMap pairBytes).length = 3 * pairs.length := by
  induction pairs with
  | nil => rfl
  | cons q rest ih => rw [List.flatMap_cons, List.length_append, ih, pairBytes_length, List.length_cons]; omega

/-- Pairs are read behind a part of the payload as they are read without it. -/
theorem pairsAt_append_right (l p : List Byte) (n i : Nat) : pairsAt (l ++ p) n (l.length + i) = pairsAt p n i := by
  induction n generalizing i with
  | zero => rfl
  | succ n ih => simp only [pairsAt, word16At, Nat.add_assoc, byteAt_append_right, ih]

/-- The pairs the host fills in are read back (10.3). -/
theorem pairsAt_flatMap_pairBytes (pairs : List (SlotId × Count)) :
    pairsAt (pairs.flatMap pairBytes) pairs.length 0 = pairs.map fun q => (natByte q.1, q.2) := by
  induction pairs with
  | nil => rfl
  | cons q rest ih =>
    rw [List.flatMap_cons, List.length_cons, pairsAt, List.map_cons]
    refine congrArg₂ List.cons (congrArg (Prod.mk _) (extract_append_16 q.2)) ?_
    exact (pairsAt_append_right (pairBytes q) _ _ 0).trans ih

theorem slotPairs_natByte (pairs : List (SlotId × Count)) :
    slotPairs (pairs.map fun q => (natByte q.1, q.2)) = some pairs := by
  induction pairs with
  | nil => rfl
  | cons q rest ih => rw [List.map_cons, slotPairs, slotOfByte_natByte, ih]

/-- The pairs of a request that names slots only (R65). -/
theorem slotPairs_writeSamplesBytes (pairs : List (SlotId × Count)) :
    slotPairs (pairsAt (writeSamplesBytes pairs) pairs.length 1) = some pairs := by
  rw [writeSamplesBytes_eq, show 1 = [natByte pairs.length].length + 0 from rfl, pairsAt_append_right,
    pairsAt_flatMap_pairBytes, slotPairs_natByte]

/-- One slot above 31 leaves no pair to write (R65). -/
theorem slotPairs_pairsAt_eq_none {p : List Byte} {n i j : Nat} (hj : j < n) (h : 31 < (byteAt p (i + 3 * j)).toNat) :
    slotPairs (pairsAt p n i) = none := by
  induction n generalizing i j with
  | zero => exact absurd hj (Nat.not_lt_zero j)
  | succ n ih =>
    rw [pairsAt, slotPairs]
    cases j with
    | zero =>
      have hnone : slotOfByte (byteAt p i) = none := slotOfByte_eq_none.2 h
      rw [hnone]
    | succ j =>
      rw [ih (j := j) (Nat.lt_of_succ_lt_succ hj) (by rwa [show i + 3 + 3 * j = i + 3 * (j + 1) by omega])]
      cases slotOfByte (byteAt p i) <;> rfl

/-! ## The write -/

/-- A slot after the pairs of a request, of which the last one that names it, if any, is given (R66). -/
def SampleSlot.afterPair (x : SampleSlot) (now : Tick) : Option (SlotId × Count) → SampleSlot
  | some q => { value := q.2, stamp := now, written := true }
  | none => x

theorem slot_setSlot (s : State) (i k : SlotId) (x : SampleSlot) :
    (s.setSlot i x).slot k = if i = k then x else s.slot k := by
  simp [State.setSlot, State.slot, Vector.getElem_set, Fin.ext_iff]

/-- The last pair that names a slot decides it, and no pair leaves it (R66). -/
theorem writeSlots_eq (s : State) (now : Tick) (pairs : List (SlotId × Count)) :
    s.writeSlots now pairs = { s with
      samples := Vector.ofFn fun k : SlotId =>
        (s.slot k).afterPair now (pairs.reverse.find? fun q => q.1 = k) } := by
  induction pairs generalizing s with
  | nil =>
    have hkept : s.samples = Vector.ofFn s.slot := by
      ext1 k hk
      simp [State.slot]
    exact congrArg (fun v => { s with samples := v }) hkept
  | cons q rest ih =>
    refine (ih _).trans (congrArg (fun f => { s with samples := Vector.ofFn f }) (funext fun k => ?_))
    rw [slot_setSlot, List.reverse_cons, List.find?_append]
    cases rest.reverse.find? fun q => q.1 = k with
    | some last => rfl
    | none =>
      by_cases hk : q.1 = k
      · simp [hk, SampleSlot.afterPair]
      · simp [hk]

theorem reqWriteSamples_taken (s : State) {pairs : List (SlotId × Count)} (h1 : 1 ≤ pairs.length)
    (h16 : pairs.length ≤ 16) : reqWriteSamples (writeSamplesBytes pairs) s
      = accept (s.writeSlots s.time.tick pairs) (bytes32 s.time.tick) := by
  have hcount : (byteAt (writeSamplesBytes pairs) 0).toNat = pairs.length := natByte_toNat (by omega)
  have hlength : (writeSamplesBytes pairs).length = 1 + 3 * pairs.length := by
    rw [writeSamplesBytes_eq, List.length_append, flatMap_pairBytes_length]
    rfl
  unfold reqWriteSamples
  dsimp only
  rw [hcount, if_neg (by omega), if_neg (by omega), slotPairs_writeSamplesBytes]

/-- A pair count or a slot out of range: no pair is written (R65). -/
theorem reqWriteSamples_badField (s : State) {n : Byte} {body : List Byte} (hlen : body.length = 3 * n.toNat)
    (h : n = 0 ∨ 16 < n.toNat ∨ ∃ j, j < n.toNat ∧ 31 < (byteAt body (3 * j)).toNat) :
    reqWriteSamples (n :: body) s = refuse s .badField := by
  unfold reqWriteSamples
  dsimp only
  rw [byteAt_cons_zero, List.length_cons, if_neg (by omega)]
  by_cases hcount : n.toNat = 0 ∨ 16 < n.toNat
  · rw [if_pos hcount]
  · obtain ⟨hn0, hn16⟩ := not_or.1 hcount
    have hslot : ∃ j, j < n.toNat ∧ 31 < (byteAt body (3 * j)).toNat :=
      (h.resolve_left fun h0 => hn0 (congrArg BitVec.toNat h0)).resolve_left hn16
    obtain ⟨j, hj, hb⟩ := hslot
    rw [if_neg hcount, slotPairs_pairsAt_eq_none hj (by rwa [Nat.add_comm, byteAt_cons_succ])]

end Sys2Proof.Machine

open Sys2Proof Sys2Proof.Machine

/-- Settles O13: READ_SAMPLES answers its slots one behind another, each read at its place, and the pairs of
WRITE_SAMPLES are read back and written together or not at all. -/
theorem samplesAreReadAndWritten : Obligations.SamplesAreReadAndWritten := by
  refine ⟨fun s tag first n hs => ⟨fun h => ?_, fun hfirst hn hlast => ?_⟩, fun s tag pairs hs h1 h16 => ?_,
    fun s tag n body hs hlen h => ?_⟩
  · rw [exec_readSamples hs, reqReadSamples_badField s first n h]
    rfl
  · refine ⟨0x00 :: slotBytes s n.toNat first.toNat, ?_, ?_, rfl, fun j k hj hk => ?_⟩
    · rw [exec_readSamples hs, reqReadSamples_taken s first n hfirst hn hlast]
      rfl
    · rw [List.length_cons, slotBytes_length, Nat.add_comm]
    · have hbyte {i r : Nat} (hr : r < 7) (hi : i = 7 * j + r + 1) :
          byteAt (0x00 :: slotBytes s n.toNat first.toNat) i = byteAt (s.slot k).toBytes r :=
        byteAt_readSamples s hj hk hr hi
      have hword {i r : Nat} (hr : r + 1 < 7) (hi : i = 7 * j + r + 1) :
          word16At (0x00 :: slotBytes s n.toNat first.toNat) i = word16At (s.slot k).toBytes r :=
        congrArg₂ (fun x y : Byte => x ++ y) (hbyte (by omega) hi) (hbyte hr (by omega))
      refine ⟨?_, ?_, ?_⟩
      · exact (hword (r := 0) (by omega) (by omega)).trans (extract_append_16 _)
      · exact (congrArg₂ (fun x y : BitVec 16 => x ++ y) (hword (r := 2) (by omega) (by omega))
          (hword (r := 4) (by omega) (by omega))).trans (extract_append_32 _)
      · exact hbyte (r := 6) (by omega) (by omega)
  · rw [exec_writeSamples hs, reqWriteSamples_taken s h1 h16, writeSlots_eq]
    rfl
  · rw [exec_writeSamples hs, reqWriteSamples_badField s hlen h]
    rfl
end

section
/-! SUPPORT. The release of a loop: what its bindings supply and whether one is stale, and the release steps from a
release that has fallen due (R28, R73 to R77, R85, R89). -/

namespace Sys2Proof.Machine

/-! ## Bindings (R28, R73, R74) -/

theorem bindingValue_eq_supplied (s : State) (b : Binding) : s.bindingValue b = s.supplied b := by
  cases b <;> rfl

theorem inputValue_eq_supplied (s : State) (b : Option Binding) : s.inputValue b = (b.map s.supplied).getD 0 := by
  cases b with
  | none => rfl
  | some b => exact bindingValue_eq_supplied s b

theorem bindingStale_iff (s : State) (maxAge : BitVec 16) (b : Binding) :
    s.bindingStale maxAge b = true ↔ s.Stale maxAge.toNat b := by
  cases b <;> simp [State.bindingStale, State.Stale]

/-- The stale check of a release is R74's: some input is stale. -/
theorem inputsStale_iff (s : State) (d : Definition) : s.inputsStale d = true ↔ s.StaleRelease d := by
  unfold State.inputsStale State.StaleRelease
  rw [Bool.or_eq_true, bindingStale_iff]
  cases d.inputB with
  | none => simp
  | some b => simp [bindingStale_iff]

/-! ## A release that has fallen due (R85) -/

/-- The loop whose release has fallen due is ACTIVE from then on (R85). -/
def State.activate (s : State) (i : LoopId) : State := s.setLoop i { s.loop i with state := .active }

theorem activate_loop_self (s : State) (i : LoopId) : (s.activate i).loop i = { s.loop i with state := .active } :=
  loop_setLoop_self s i _

theorem activate_setLoop (s : State) (i : LoopId) (l : LoopEntry) : (s.activate i).setLoop i l = s.setLoop i l :=
  setLoop_setLoop s i _ l

/-- A change of the released loop's entry finds the loop ACTIVE, and is the one change the state has seen. -/
theorem activate_modLoop (s : State) (i : LoopId) (f : LoopEntry → LoopEntry) :
    (s.activate i).modLoop i f = s.setLoop i (f { s.loop i with state := .active }) := by
  rw [State.modLoop, activate_loop_self, activate_setLoop]

/-- What a binding reads of a loop entry does not depend on the loop state (R28, R73). -/
theorem activate_loop_read (s : State) (i n : LoopId) :
    ((s.activate i).loop n).presented = (s.loop n).presented
      ∧ ((s.activate i).loop n).secondary = (s.loop n).secondary
      ∧ ((s.activate i).loop n).outputValid = (s.loop n).outputValid := by
  unfold State.activate
  rw [loop_setLoop]
  split
  · next h => subst h; exact ⟨rfl, rfl, rfl⟩
  · exact ⟨rfl, rfl, rfl⟩

theorem activate_supplied (s : State) (i : LoopId) : (s.activate i).supplied = s.supplied := by
  funext b
  cases b with
  | zero | sample k => rfl
  | primary n =>
    obtain ⟨hpresented, -, -⟩ := activate_loop_read s i n
    exact hpresented
  | secondary n =>
    obtain ⟨-, hsecondary, -⟩ := activate_loop_read s i n
    exact hsecondary

theorem activate_stale (s : State) (i : LoopId) : (s.activate i).Stale = s.Stale := by
  funext maxAge b
  cases b with
  | zero | sample k => rfl
  | primary n | secondary n =>
    obtain ⟨-, -, hvalid⟩ := activate_loop_read s i n
    exact congrArg (· = false) hvalid

theorem activate_inputsStale (s : State) (i : LoopId) (d : Definition) :
    (s.activate i).inputsStale d = true ↔ s.StaleRelease d := by
  rw [inputsStale_iff]
  unfold State.StaleRelease
  rw [activate_stale]

/-- The instance of a taken release, latched from the bindings as they stand at the release (R28, R89). -/
theorem activate_newInstance (s : State) (i : LoopId) (d : Definition) (stale : Bool) :
    (s.activate i).newInstance i d stale =
      { loop := i, releaseTick := s.time.tick, priority := d.priority
        a := s.supplied d.inputA, b := (d.inputB.map s.supplied).getD 0
        nextStage := 1, proposals := Vector.replicate 4 none
        marks := { sat := false, stale := stale, arith := false }, abandoned := false } := by
  unfold State.newInstance
  rw [bindingValue_eq_supplied, inputValue_eq_supplied, activate_supplied]
  rfl

/-- A release that has fallen due: its steps, and the choices that follow in its event (R85, R105, R161). -/
theorem exec_release_due {s : State} {i : LoopId} {d : Definition} (h : s.FallsDue i d) :
    exec (.release i) s = .next (((s.activate i).releaseSteps i d).settleChoice.transmit) := by
  obtain ⟨hpower, hd, htick, hstate⟩ := h
  have hdue : s.dueRelease i = some d := dueRelease_eq_some.2 ⟨htick, hstate, hd⟩
  have hevent : s.releaseEvent i = ((s.activate i).releaseSteps i d).settleChoice.transmit := by
    unfold State.releaseEvent
    rw [hdue]
    rfl
  have hexec : exec (.release i) s = s.whenRunning fun t => t.releaseEvent i := rfl
  rw [hexec, State.whenRunning, if_pos hpower, hevent]

/-- A stale release without an outstanding instance goes by the stale policy (R75, R76, R77). -/
theorem releaseSteps_stale {s : State} {i : LoopId} {d : Definition} (hstatus : (s.loop i).status = .noInstance)
    (hstale : s.inputsStale d = true) :
    (d.stalePolicy = .use → s.releaseSteps i d = s.takeRelease i d true)
      ∧ (d.stalePolicy = .skip → s.releaseSteps i d = s.skipRelease i d)
      ∧ (d.stalePolicy = .fault → s.releaseSteps i d = s.faultLoop i flagStale) := by
  unfold State.releaseSteps
  rw [if_neg (not_not.2 hstatus), if_pos hstale]
  exact ⟨fun h => by simp only [h], fun h => by simp only [h], fun h => by simp only [h]⟩

/-! ## What each step does -/

/-- The next-release tick of a release at `t`, one period later (R84). -/
theorem LoopEntry.advance_eq {l : LoopEntry} {t : Tick} (h : l.nextRelease = some t) (d : Definition) :
    l.advance d = { l with nextRelease := some (t + d.period.setWidth 32) } := by
  unfold LoopEntry.advance
  rw [h]
  rfl

theorem LoopEntry.commitAtRelease_eq (l : LoopEntry) : l.commitAtRelease =
    { l with
      activeBank := if l.commitPending then l.pendingBank else l.activeBank, commitPending := false } := by
  unfold LoopEntry.commitAtRelease
  split
  · rfl
  · next h => rw [← Bool.eq_false_iff.2 h]

/-- A taken release in the entry of a loop released at `t` (R58, R84, R89). -/
theorem LoopEntry.taken_eq {l : LoopEntry} {t : Tick} (h : l.nextRelease = some t) (d : Definition) : l.taken d =
    { l with
      status := .due, missCount := 0, nextRelease := some (t + d.period.setWidth 32)
      stats := { l.stats with releasesTaken := satInc l.stats.releasesTaken }
      activeBank := if l.commitPending then l.pendingBank else l.activeBank, commitPending := false } := by
  have hadvance := LoopEntry.advance_eq (l := l.commitAtRelease) (by rw [LoopEntry.commitAtRelease_eq]; exact h) d
  unfold LoopEntry.taken
  rw [hadvance, LoopEntry.commitAtRelease_eq]
  rfl

/-- The fault of a loop without an outstanding instance changes its entry alone ahead of the alarms and the report
(R27). -/
theorem faultLoop_noInstance {s : State} {i : LoopId} (h : (s.loop i).status = .noInstance) (handed : FlagSet) :
    s.faultLoop i handed = ((s.setLoop i
      { s.loop i with state := .faulted, nextRelease := none, safeSub := true, outputValid := false }).handAlarms i
        (handed ||| flagFault)).safeOutput i := by
  have hended : s.endInstance i = s := by
    rw [endInstance_eq_place, ← h]
    exact place_unchanged rfl h
  rw [State.faultLoop, hended]
  rfl

section

variable {s : State} {i : LoopId} {d : Definition} (htick : (s.loop i).nextRelease = some s.time.tick)
include htick

/-- A taken release: the loop entry, the instance inserted, and the STALE flag where a stale input is used
(R75, R89). -/
theorem activate_takeRelease (stale : Bool) : (s.activate i).takeRelease i d stale =
    let t : State := { s.setLoop i
      { s.loop i with
        state := .active, status := .due, missCount := 0, nextRelease := some (s.time.tick + d.period.setWidth 32)
        stats := { (s.loop i).stats with releasesTaken := satInc (s.loop i).stats.releasesTaken }
        activeBank := if (s.loop i).commitPending then (s.loop i).pendingBank else (s.loop i).activeBank
        commitPending := false } with
      cu := s.cu.insert s.time.tick ((s.activate i).newInstance i d stale) }
    if stale then t.handAlarms i flagStale else t := by
  have htaken := LoopEntry.taken_eq (l := { s.loop i with state := .active }) htick d
  unfold State.takeRelease
  rw [activate_modLoop, htaken]
  rfl

theorem activate_skipRelease : (s.activate i).skipRelease i d =
    (s.setLoop i { s.loop i with
      state := .active, nextRelease := some (s.time.tick + d.period.setWidth 32)
      stats := { (s.loop i).stats with skips := satInc (s.loop i).stats.skips } }).handAlarms i flagStale := by
  have hadvance := LoopEntry.advance_eq (l := { s.loop i with state := .active }) htick d
  unfold State.skipRelease
  rw [activate_modLoop, hadvance]
  rfl

end

theorem activate_faultLoop {s : State} {i : LoopId} (h : (s.loop i).status = .noInstance) (handed : FlagSet) :
    (s.activate i).faultLoop i handed = ((s.setLoop i
      { s.loop i with state := .faulted, nextRelease := none, safeSub := true, outputValid := false }).handAlarms i
        (handed ||| flagFault)).safeOutput i := by
  rw [faultLoop_noInstance (by rw [activate_loop_self]; exact h), activate_setLoop, activate_loop_self]

end Sys2Proof.Machine

open Sys2Proof Sys2Proof.Machine

/-- Settles O40: the release has fallen due and is stale, and each stale policy is its own step of R85. -/
theorem staleReleaseFollowsThePolicy : Obligations.StaleReleaseFollowsThePolicy := by
  intro s i d hdue hstatus hstale
  have hexec := exec_release_due hdue
  obtain ⟨huse, hskip, hfault⟩ := releaseSteps_stale (s := s.activate i) (by rw [activate_loop_self]; exact hstatus)
    ((activate_inputsStale s i d).2 hstale)
  obtain ⟨-, -, htick, -⟩ := hdue
  refine ⟨fun hpolicy => hexec.trans ?_, fun hpolicy => hexec.trans ?_, fun hpolicy => hexec.trans ?_⟩
  · rw [huse hpolicy, activate_takeRelease htick, activate_newInstance]
    rfl
  · rw [hskip hpolicy, activate_skipRelease htick]
    rfl
  · rw [hfault hpolicy, activate_faultLoop hstatus]
    rfl
end

section
/-! SUPPORT. A release that finds an outstanding instance or fresh inputs: the entry it leaves, and where the instance
stands after it (R24, R27, R85 to R89). -/

namespace Sys2Proof.Machine

/-! ## Whether a release is due (R85) -/

theorem dueRelease_eq_none {s : State} (hpower : s.power = .running) {i : LoopId} :
    s.dueRelease i = none ↔ ∀ d, ¬s.FallsDue i d := by
  simp only [Option.eq_none_iff_forall_ne_some, ne_eq, dueRelease_eq_some]
  exact forall_congr' fun d => not_congr
    ⟨fun ⟨htick, hstate, hd⟩ => ⟨hpower, hd, htick, hstate⟩, fun ⟨_, hd, htick, hstate⟩ => ⟨htick, hstate, hd⟩⟩

theorem releaseEvent_of_none {s : State} {i : LoopId} (h : s.dueRelease i = none) : s.releaseEvent i = s := by
  unfold State.releaseEvent
  rw [h]

theorem exec_release_running {s : State} (h : s.power = .running) (i : LoopId) :
    exec (.release i) s = .next (s.releaseEvent i) := by
  have hexec : exec (.release i) s = s.whenRunning fun t => t.releaseEvent i := rfl
  rw [hexec, State.whenRunning, if_pos h]

/-! ## The steps of a release -/

theorem releaseSteps_miss {s : State} {i : LoopId} (h : (s.loop i).status ≠ .noInstance) (d : Definition) :
    s.releaseSteps i d = s.missRelease i d := by
  unfold State.releaseSteps
  rw [if_pos h]

theorem releaseSteps_fresh {s : State} {i : LoopId} {d : Definition} (hstatus : (s.loop i).status = .noInstance)
    (hfresh : ¬s.inputsStale d = true) : s.releaseSteps i d = s.takeRelease i d false := by
  unfold State.releaseSteps
  rw [if_neg (not_not.2 hstatus), if_neg hfresh]

/-- The entry to FAULTED ends the instance and changes the loop's entry, ahead of the alarms and the report (R27). -/
theorem faultLoop_eq_place (s : State) (i : LoopId) (handed : FlagSet) : s.faultLoop i handed = ((s.place i
    { s.loop i with
      state := .faulted, status := .noInstance, nextRelease := none, safeSub := true, outputValid := false }
    fun u => u.endInstance i (s.loop i).status).handAlarms i (handed ||| flagFault)).safeOutput i := by
  have hplace : (s.endInstance i).modLoop i
        (fun l => { l with state := .faulted, nextRelease := none, safeSub := true, outputValid := false })
      = s.place i { s.loop i with
          state := .faulted, status := .noInstance, nextRelease := none, safeSub := true, outputValid := false }
        fun u => u.endInstance i (s.loop i).status := by
    rw [State.modLoop, endInstance_loop_self, endInstance_eq_place, place_setLoop]
  rw [State.faultLoop, hplace]

/-- The entry placed is the one that stays. -/
theorem place_of_setLoop (s : State) (i : LoopId) (l l' : LoopEntry) (f : CompUnit → CompUnit) :
    (s.setLoop i l).place i l' f = s.place i l' f := by
  rw [State.place, setLoop_setLoop]
  rfl

/-- What becomes of a running instance: one of loop `i` gets the abandon mark in its stage and is dropped at its
boundary, any other stays (R113). -/
theorem CompUnit.abandon_eq (u : CompUnit) (i : LoopId) : u.abandon i = { u with
    running := u.running.bind fun x =>
      if x.loop ≠ i then some x
      else if u.state = .stage then some { x with abandoned := true }
      else none } := by
  obtain ⟨state, due, running, stack⟩ := u
  cases running with
  | none => rfl
  | some x =>
    by_cases h : x.loop = i
    · simp [CompUnit.abandon, h]
    · simp [CompUnit.abandon, h]

/-- What a miss does to the loop entry: the next release is one period ahead, and the misses rise (R84, R86). -/
def LoopEntry.missed (l : LoopEntry) (d : Definition) : LoopEntry :=
  { l.advance d with stats := l.stats.incMisses, missCount := satInc l.missCount }

/-- The miss of a loop released at `t`, field by field. -/
theorem LoopEntry.missed_eq {l : LoopEntry} {t : Tick} (h : l.nextRelease = some t) (d : Definition) : l.missed d =
    { l with
      nextRelease := some (t + d.period.setWidth 32), missCount := satInc l.missCount
      stats := { l.stats with misses := satInc l.stats.misses } } := by
  unfold LoopEntry.missed
  rw [LoopEntry.advance_eq h]
  rfl

/-- A miss is the fault at the miss limit and hands on the MISS flag below it (R86, R87). -/
theorem missRelease_eq (s : State) (i : LoopId) (d : Definition) : s.missRelease i d =
    if d.missLimit ≠ 0 ∧ satInc (s.loop i).missCount = d.missLimit then
      (s.setLoop i ((s.loop i).missed d)).faultLoop i flagMiss
    else (s.setLoop i ((s.loop i).missed d)).handAlarms i flagMiss := by
  unfold State.missRelease
  dsimp only
  rw [loop_modLoop_self]
  rfl

end Sys2Proof.Machine

open Sys2Proof Sys2Proof.Machine

/-- Settles O38: the release has fallen due with no instance outstanding and no input stale, so it is taken. -/
theorem takenReleaseCreatesAnInstance : Obligations.TakenReleaseCreatesAnInstance := by
  intro s i d hdue hstatus hfresh
  have hsteps := releaseSteps_fresh (s := s.activate i) (by rw [activate_loop_self]; exact hstatus)
    (mt (activate_inputsStale s i d).1 hfresh)
  refine (exec_release_due hdue).trans ?_
  obtain ⟨-, -, htick, -⟩ := hdue
  rw [hsteps, activate_takeRelease htick, activate_newInstance]
  rfl

/-- Settles O39: the outstanding instance makes the release a miss, and a miss at the limit is the entry to FAULTED;
a loop with no release due is left as it stands. -/
theorem missedReleaseLeavesTheInstance : Obligations.MissedReleaseLeavesTheInstance := by
  refine ⟨fun s i d hdue hstatus => ?_, fun s i hpower hnone => ?_⟩
  · have hexec := exec_release_due hdue
    obtain ⟨-, -, htick, -⟩ := hdue
    have hmissed := LoopEntry.missed_eq (l := { s.loop i with state := .active }) htick d
    rw [releaseSteps_miss (by rw [activate_loop_self]; exact hstatus), missRelease_eq, activate_loop_self,
      activate_setLoop, hmissed] at hexec
    refine ⟨fun hlimit => hexec.trans ?_, fun hlimit => hexec.trans ?_⟩
    · rw [if_neg hlimit]
      rfl
    · rw [if_pos hlimit, faultLoop_eq_place, loop_setLoop_self, place_of_setLoop]
      dsimp only
      cases (s.loop i).status with
      | noInstance | due | suspended => rfl
      | running =>
        dsimp only [State.place, CompUnit.endInstance]
        rw [CompUnit.abandon_eq]
        rfl
  · rw [exec_release_running hpower, releaseEvent_of_none ((dueRelease_eq_none hpower).2 hnone)]
end

section
/-! SUPPORT. What an event of the engine leaves of the schedule: the clock, the mode, and of each loop its definition,
state and next-release tick, on which alone it depends whether a release is due (R81, R84, R85). -/

namespace Sys2Proof.Machine

/-- What of a loop entry decides whether a release of the loop is due, and by which definition (R85). -/
def LoopEntry.schedule (l : LoopEntry) : Option Definition × LoopState × Option Tick :=
  (l.definition, l.state, l.nextRelease)

/-- Two states with the same clock, mode and schedule of every loop. -/
structure SameSchedule (s t : State) : Prop where
  power : t.power = s.power
  time : t.time = s.time
  mode : t.ctl.mode = s.ctl.mode
  loop : ∀ i, (t.loop i).schedule = (s.loop i).schedule

namespace SameSchedule

theorem trans {s t u : State} (h : SameSchedule s t) (k : SameSchedule t u) : SameSchedule s u :=
  ⟨k.power.trans h.power, k.time.trans h.time, k.mode.trans h.mode, fun i => (k.loop i).trans (h.loop i)⟩

theorem of_sameCore {s t : State} (h : SameCore s t) (hpower : t.power = s.power) (htime : t.time = s.time) :
    SameSchedule s t := by
  refine ⟨hpower, htime, h.mode, fun i => ?_⟩
  rw [LoopEntry.schedule, h.definition, h.state, h.nextRelease]
  rfl

/-- Whether a release is due depends on the schedule alone (R85). -/
theorem dueRelease {s t : State} (h : SameSchedule s t) (i : LoopId) : t.dueRelease i = s.dueRelease i := by
  obtain ⟨hdefinition, hstate, hnext⟩ : (t.loop i).definition = (s.loop i).definition
      ∧ (t.loop i).state = (s.loop i).state ∧ (t.loop i).nextRelease = (s.loop i).nextRelease := by
    simpa [LoopEntry.schedule] using h.loop i
  unfold State.dueRelease
  rw [hdefinition, hstate, hnext, h.time, h.mode]

end SameSchedule

theorem sameSchedule_handAlarms (s : State) (i : LoopId) (f : FlagSet) : SameSchedule s (s.handAlarms i f) := by
  obtain ⟨u, ls, a, h⟩ := handAlarms_only s i f
  exact .of_sameCore (sameCore_handAlarms s i f) (by rw [h]) (by rw [h])

theorem sameSchedule_safeOutput (s : State) (i : LoopId) : SameSchedule s (s.safeOutput i) := by
  obtain ⟨u, ls, h⟩ := safeOutput_only s i
  exact .of_sameCore (sameCore_safeOutput s i) (by rw [h]) (by rw [h])

theorem sameSchedule_transmit (s : State) : SameSchedule s s.transmit := by
  obtain ⟨u, q, tx, h⟩ := transmit_only s
  exact .of_sameCore (sameCore_transmit s) (by rw [h]) (by rw [h])

theorem sameSchedule_settleChoice (s : State) : SameSchedule s s.settleChoice := by
  obtain ⟨u, ls, h⟩ := settleChoice_only s
  refine ⟨by rw [h], by rw [h], by rw [h], fun i => ?_⟩
  obtain ⟨status, stats, hloop⟩ := settleChoice_loop s i
  rw [hloop]
  rfl

/-- A state that differs from another in the computation unit alone has its schedule. -/
theorem sameSchedule_cu (s : State) (u : CompUnit) : SameSchedule s { s with cu := u } :=
  ⟨rfl, rfl, rfl, fun _ => rfl⟩

/-! ## A release (R84, R85) -/

/-- From `s` to `t` a release of loop `i` has been taken or skipped: of the schedule only the loop's own entry changed,
and its next release, where it has one, is at another tick. -/
def Released (i : LoopId) (s t : State) : Prop :=
  ∃ l : LoopEntry, l.nextRelease ≠ some s.time.tick ∧ SameSchedule (s.setLoop i l) t

theorem Released.trans {i : LoopId} {s t u : State} (h : Released i s t) (k : SameSchedule t u) : Released i s u := by
  obtain ⟨l, hl, hsame⟩ := h
  exact ⟨l, hl, hsame.trans k⟩

/-- The release done on an entry of the loop changed before it, in the same event. -/
theorem Released.of_setLoop {i : LoopId} {s t : State} {l : LoopEntry} (h : Released i (s.setLoop i l) t) :
    Released i s t := by
  obtain ⟨l', hl', hsame⟩ := h
  rw [setLoop_setLoop] at hsame
  exact ⟨l', hl', hsame⟩

theorem released_faultLoop (s : State) (i : LoopId) (handed : FlagSet) : Released i s (s.faultLoop i handed) := by
  rw [faultLoop_eq_place]
  refine ⟨_, ?_, ((sameSchedule_cu _ _).trans (sameSchedule_handAlarms _ _ _)).trans (sameSchedule_safeOutput _ _)⟩
  nofun

/-- A period of at least one tick takes the next release to another tick (R84). -/
theorem add_period_ne (t : Tick) {period : BitVec 16} (h : 0 < period.toNat) : t + period.setWidth 32 ≠ t := by
  bv_omega

section

variable {s : State} {i : LoopId} {d : Definition} (htick : (s.loop i).nextRelease = some s.time.tick)
  (hperiod : 0 < d.period.toNat)
include htick hperiod

theorem advance_nextRelease_ne : ((s.loop i).advance d).nextRelease ≠ some s.time.tick := by
  rw [LoopEntry.advance_eq htick]
  exact fun h => add_period_ne s.time.tick hperiod (Option.some.inj h)

theorem released_missRelease : Released i s (s.missRelease i d) := by
  rw [missRelease_eq]
  split
  · exact (released_faultLoop _ i flagMiss).of_setLoop
  · exact ⟨(s.loop i).missed d, advance_nextRelease_ne htick hperiod, sameSchedule_handAlarms _ i flagMiss⟩

theorem released_skipRelease : Released i s (s.skipRelease i d) :=
  ⟨{ (s.loop i).advance d with stats := (s.loop i).stats.incSkips }, advance_nextRelease_ne htick hperiod,
    sameSchedule_handAlarms _ i flagStale⟩

theorem released_takeRelease (stale : Bool) : Released i s (s.takeRelease i d stale) := by
  have htaken : ((s.loop i).taken d).nextRelease ≠ some s.time.tick := by
    rw [LoopEntry.taken_eq htick]
    exact fun h => add_period_ne s.time.tick hperiod (Option.some.inj h)
  have hinserted : Released i s
      { s.setLoop i ((s.loop i).taken d) with cu := s.cu.insert s.time.tick (s.newInstance i d stale) } :=
    ⟨_, htaken, sameSchedule_cu _ _⟩
  unfold State.takeRelease
  dsimp only
  split
  · exact hinserted.trans (sameSchedule_handAlarms _ i flagStale)
  · exact hinserted

/-- Every release, taken or skipped, leaves its loop with no release at the present tick, and every other loop as
scheduled (R84 to R87). -/
theorem released_releaseSteps : Released i s (s.releaseSteps i d) := by
  unfold State.releaseSteps
  split
  · exact released_missRelease htick hperiod
  · split
    · split
      · exact released_takeRelease htick hperiod true
      · exact released_skipRelease htick hperiod
      · exact released_faultLoop s i flagStale
    · exact released_takeRelease htick hperiod false

end

theorem released_releaseEvent {s : State} {i : LoopId} {d : Definition} (hdue : s.FallsDue i d)
    (hperiod : 0 < d.period.toNat) : Released i s (s.releaseEvent i) := by
  have hexec := exec_release_due hdue
  obtain ⟨hpower, -, htick, -⟩ := hdue
  rw [exec_release_running hpower, Host.Outcome.next.injEq] at hexec
  have hsteps : Released i (s.activate i) ((s.activate i).releaseSteps i d) :=
    released_releaseSteps (by rw [activate_loop_self]; exact htick) hperiod
  rw [hexec]
  exact (hsteps.of_setLoop.trans (sameSchedule_settleChoice _)).trans (sameSchedule_transmit _)

/-- After its release a loop has none due at this tick, and every other loop has one due as before (R84, R85). -/
theorem Released.dueRelease {i : LoopId} {s t : State} (h : Released i s t) (j : LoopId) :
    t.dueRelease j = if j = i then none else s.dueRelease j := by
  obtain ⟨l, hl, hsame⟩ := h
  rw [hsame.dueRelease]
  unfold State.dueRelease
  rw [loop_setLoop]
  split
  · exact if_neg fun ⟨hnext, _⟩ => hl hnext
  · rfl

theorem Released.power {i : LoopId} {s t : State} (h : Released i s t) : t.power = s.power := by
  obtain ⟨l, -, hsame⟩ := h
  exact hsame.power

/-! ## The tick (R79, R80, R85) -/

theorem exec_tick_running {s : State} (h : s.power = .running) :
    exec .tick s = .next s.takeDueReleases.tickEvent := by
  have hexec : exec .tick s = s.whenRunning fun t => t.takeDueReleases.tickEvent := rfl
  rw [hexec, State.whenRunning, if_pos h]

/-- Where one loop alone changes the state, and no loop changes it further, the loops' changes together are that one. -/
theorem foldl_single {f : LoopId → State → State} {s : State} {i : LoopId} (hother : ∀ j, j ≠ i → f j s = s)
    (hdone : ∀ j, f j (f i s) = f i s) {l : List LoopId} (hi : i ∈ l) : l.foldl (fun t j => f j t) s = f i s := by
  induction l with
  | nil => cases hi
  | cons j rest ih =>
    rw [List.foldl_cons]
    by_cases hj : j = i
    · rw [hj, List.foldl_fixed' hdone]
    · rw [hother j hj]
      exact ih ((List.mem_cons.1 hi).resolve_left (Ne.symm hj))

theorem takeDueReleases_of_none {s : State} (h : ∀ i, s.dueRelease i = none) : s.takeDueReleases = s :=
  List.foldl_fixed' (fun i => releaseEvent_of_none (h i)) allLoops

/-- One release still due is the one a tick takes ahead of it (R85; log entry 6). -/
theorem takeDueReleases_single {s : State} {i : LoopId} (hother : ∀ j, j ≠ i → s.dueRelease j = none)
    (hdone : ∀ j, (s.releaseEvent i).dueRelease j = none) : s.takeDueReleases = s.releaseEvent i :=
  foldl_single (f := fun i t => t.releaseEvent i) (fun j hj => releaseEvent_of_none (hother j hj))
    (fun j => releaseEvent_of_none (hdone j)) (mem_allLoops i)

end Sys2Proof.Machine

open Sys2Proof Sys2Proof.Machine

/-- Settles O37: with nothing due a tick takes no release ahead of its event; with one release due it takes that one,
after which none is due. -/
theorem tickRaisesTheTickCount : Obligations.TickRaisesTheTickCount := by
  refine ⟨fun s hpower hnone => ?_, fun s i d hdue hperiod honly => ⟨s.releaseEvent i, ?_, ?_⟩⟩
  · rw [exec_tick_running hpower,
      takeDueReleases_of_none fun i => (dueRelease_eq_none hpower).2 (hnone i)]
    rfl
  · obtain ⟨hpower, -⟩ := hdue
    exact exec_release_running hpower i
  · have hreleased := released_releaseEvent hdue hperiod
    obtain ⟨hpower, -⟩ := hdue
    have hother : ∀ j, j ≠ i → s.dueRelease j = none := fun j hj =>
      (dueRelease_eq_none hpower).2 fun e he => hj (honly j e he)
    have hdone : ∀ j, (s.releaseEvent i).dueRelease j = none := fun j => by
      rw [hreleased.dueRelease]
      split
      · rfl
      · next hj => exact hother j hj
    rw [exec_tick_running hpower, exec_tick_running (hreleased.power.trans hpower),
      takeDueReleases_single hother hdone, takeDueReleases_of_none hdone]
end

section
/-! SUPPORT. The first release of an arming point: the first count of a remainder, ahead of the wrap or behind it
(R83). -/

namespace Sys2Proof.Machine

/-- The first number from `x` on that leaves remainder `offset` when divided by `period` (R83). -/
def alignedFrom (x period offset : Nat) : Nat := x + (offset + period - x % period) % period

section

variable {period offset : Nat} (h : offset < period)
include h

theorem alignedFrom_lt (x : Nat) : alignedFrom x period offset < x + period :=
  Nat.add_lt_add_left (Nat.mod_lt _ (by omega)) x

theorem alignedFrom_mod (x : Nat) : alignedFrom x period offset % period = offset := by
  have hx : x % period < period := Nat.mod_lt x (by omega)
  have hsum : x % period + (offset + period - x % period) = offset + period := by omega
  calc (x + (offset + period - x % period) % period) % period
      = (x % period + (offset + period - x % period)) % period := by rw [Nat.add_mod_mod, Nat.mod_add_mod]
    _ = (offset + period) % period := by rw [hsum]
    _ = offset := by rw [Nat.add_mod_right, Nat.mod_eq_of_lt h]

/-- No number from `x` on and short of it leaves the remainder. -/
theorem mod_ne_of_lt_alignedFrom {x y : Nat} (hx : x ≤ y) (hy : y < alignedFrom x period offset) :
    y % period ≠ offset := by
  intro hmod
  have hlt := alignedFrom_lt h x
  have hdvd : period ∣ alignedFrom x period offset - y :=
    (Nat.modEq_iff_dvd' hy.le).1 (hmod.trans (alignedFrom_mod h x).symm)
  have hle := Nat.le_of_dvd (by omega) hdvd
  omega

end

theorem firstRelease_eq (now : Tick) (period offset : BitVec 16) : firstRelease now period offset =
    if alignedFrom (now.toNat + 1) period.toNat offset.toNat < 2 ^ 32 then
      BitVec.ofNat 32 (alignedFrom (now.toNat + 1) period.toNat offset.toNat)
    else BitVec.ofNat 32 offset.toNat := rfl

/-- The count `n` ticks ahead, ahead of the wrap and behind it (R80). -/
theorem toNat_add_ticks {now : Tick} {n : Nat} (h : n < 2 ^ 32) : (now + BitVec.ofNat 32 n).toNat =
    if now.toNat + n < 2 ^ 32 then now.toNat + n else now.toNat + n - 2 ^ 32 := by
  have := now.isLt
  rw [BitVec.toNat_add, BitVec.toNat_ofNat, Nat.mod_eq_of_lt h]
  split <;> omega

/-- The next-release tick is the first aligned count where that stands ahead of the wrap, and otherwise the count of
the offset behind it: the ticks short of it are not aligned, ahead of the wrap by the choice of the first and behind it
because their counts are below the offset (R83). -/
theorem firstRelease_spec (now : Tick) {period offset : BitVec 16} (h : offset.toNat < period.toNat) :
    ∃ n : Nat, 1 ≤ n ∧ n ≤ 2 * period.toNat - 1
      ∧ (now.toNat + n < 2 ^ 32 → n ≤ period.toNat)
      ∧ firstRelease now period offset = now + BitVec.ofNat 32 n
      ∧ (now + BitVec.ofNat 32 n).toNat % period.toNat = offset.toNat
      ∧ ∀ m, 1 ≤ m → m < n → (now + BitVec.ofNat 32 m).toNat % period.toNat ≠ offset.toNat := by
  have hnow := now.isLt
  have hperiod := period.isLt
  have hlt := alignedFrom_lt h (now.toNat + 1)
  have hle : now.toNat + 1 ≤ alignedFrom (now.toNat + 1) period.toNat offset.toNat := Nat.le_add_right _ _
  have hmod := alignedFrom_mod h (now.toNat + 1)
  have hfirst := fun y => mod_ne_of_lt_alignedFrom (x := now.toNat + 1) (y := y) h
  rw [firstRelease_eq]
  generalize alignedFrom (now.toNat + 1) period.toNat offset.toNat = c at hlt hle hmod hfirst ⊢
  split
  case isTrue hc =>
    refine ⟨c - now.toNat, by omega, by omega, by omega, ?_, ?_, fun m hm hmn => ?_⟩
    · refine BitVec.eq_of_toNat_eq ?_
      rw [toNat_add_ticks (by omega), if_pos (by omega), BitVec.toNat_ofNat, Nat.mod_eq_of_lt hc]
      omega
    · rw [toNat_add_ticks (by omega), if_pos (by omega), show now.toNat + (c - now.toNat) = c by omega]
      exact hmod
    · rw [toNat_add_ticks (by omega), if_pos (by omega)]
      exact hfirst _ (by omega) (by omega)
  case isFalse hc =>
    refine ⟨2 ^ 32 - now.toNat + offset.toNat, by omega, by omega, by omega, ?_, ?_, fun m hm hmn => ?_⟩
    · refine BitVec.eq_of_toNat_eq ?_
      rw [toNat_add_ticks (by omega), if_neg (by omega), BitVec.toNat_ofNat, Nat.mod_eq_of_lt (by omega)]
      omega
    · rw [toNat_add_ticks (by omega), if_neg (by omega),
        show now.toNat + (2 ^ 32 - now.toNat + offset.toNat) - 2 ^ 32 = offset.toNat by omega]
      exact Nat.mod_eq_of_lt h
    · rw [toNat_add_ticks (by omega)]
      split
      · exact hfirst _ (by omega) (by omega)
      · rw [Nat.mod_eq_of_lt (by omega)]
        omega

end Sys2Proof.Machine

open Sys2Proof Sys2Proof.Machine

/-- Settles O49: the bounds by the period, and twice a 16-bit period less 1 is at most 131 069. -/
theorem firstReleaseIsTheFirstAlignedTick : Obligations.FirstReleaseIsTheFirstAlignedTick := by
  intro now period offset _ hoffset
  have hperiod := period.isLt
  obtain ⟨n, hpos, hbound, hnowrap, heq, haligned, hfirst⟩ := firstRelease_spec now hoffset
  exact ⟨n, hpos, by omega, hbound, hnowrap, heq, haligned, hfirst⟩
end

section
/-! SUPPORT. The choice by the tables of R106 and R107, and the place of an insertion in the due queue (R99). -/

namespace Sys2Proof.Machine

/-! ## The choice (R105 to R107) -/

theorem noneDue_iff (s : State) : s.noneDue = true ↔ ∀ i, (s.loop i).nextRelease ≠ some s.time.tick := by
  simp [State.noneDue, mem_allLoops]

/-- Without a pending choice, or with a release still due at the tick, there is no choice (R105). -/
theorem settleChoice_pending {s : State}
    (h : s.cu.state ≠ .choice ∨ ∃ i, (s.loop i).nextRelease = some s.time.tick) : s.settleChoice = s := by
  refine if_neg fun ⟨hstate, hnone⟩ => ?_
  rcases h with h | ⟨i, hi⟩
  · exact h hstate
  · exact (noneDue_iff s).1 hnone i hi

/-- A pending choice with no release left to take is the one with the running slot empty, or the one at a stage
boundary (R105). -/
theorem settleChoice_made {s : State} (hstate : s.cu.state = .choice)
    (hnone : ∀ i, (s.loop i).nextRelease ≠ some s.time.tick) :
    (s.cu.running = none → s.settleChoice = s.chooseEmpty)
      ∧ ∀ x, s.cu.running = some x → s.settleChoice = s.chooseAtBoundary x := by
  unfold State.settleChoice
  rw [if_pos ⟨hstate, (noneDue_iff s).2 hnone⟩]
  exact ⟨fun h => by simp only [h], fun x h => by simp only [h]⟩

/-- The table of R106, row by row. -/
theorem chooseEmpty_rows (s : State) :
    (s.cu.due = [] → s.cu.stack = [] → s.chooseEmpty = { s with cu := { s.cu with state := .idle } })
      ∧ (∀ b q, s.cu.due = b :: q → s.cu.stack = [] → s.chooseEmpty = s.beginStage b q [])
      ∧ (∀ a r, s.cu.due = [] → s.cu.stack = a :: r → s.chooseEmpty = s.beginStage a [] r)
      ∧ ∀ b q a r, s.cu.due = b :: q → s.cu.stack = a :: r → s.chooseEmpty =
        if b.priority < a.priority then s.beginStage b q (a :: r) else s.beginStage a (b :: q) r := by
  unfold State.chooseEmpty
  refine ⟨fun hd hs => ?_, fun b q hd hs => ?_, fun a r hd hs => ?_, fun b q a r hd hs => ?_⟩ <;> simp only [hd, hs]

/-- The due head goes ahead of `x` at its stage boundary: it is strictly more urgent, and the stack has room
(R107). -/
def State.Preempts (s : State) (x b : Instance) : Prop := b.priority < x.priority ∧ s.cu.stack.length < 3

theorem chooseAtBoundary_preempted {s : State} {x b : Instance} {q : List Instance} (hdue : s.cu.due = b :: q)
    (h : s.Preempts x b) : s.chooseAtBoundary x =
      (s.modLoop x.loop fun l =>
        { l with status := .suspended, stats := l.stats.incPreemptions }).beginStage b q (x :: s.cu.stack) := by
  unfold State.chooseAtBoundary
  simp only [hdue]
  exact if_pos h

theorem chooseAtBoundary_continues {s : State} {x : Instance}
    (h : ∀ b q, s.cu.due = b :: q → ¬s.Preempts x b) :
    s.chooseAtBoundary x = s.beginStage x s.cu.due s.cu.stack := by
  unfold State.chooseAtBoundary
  cases hdue : s.cu.due with
  | nil => rfl
  | cons b q => exact if_neg (h b q hdue)

/-! ## The due queue (R99) -/

/-- The comparison an insertion makes is R99's: by priority, then age, then loop number. -/
theorem aheadOf_iff (now : Tick) (y x : Instance) : aheadOf now y x = true ↔ StandsAhead now y x := by
  simp only [aheadOf, Bool.or_eq_true, Bool.and_eq_true, beq_iff_eq, decide_eq_true_eq]
  rw [eq_comm (a := age now y.releaseTick)]
  rfl

theorem any_aheadOf_iff (now : Tick) (x : Instance) (l : List Instance) :
    l.any (fun y => aheadOf now y x) = true ↔ ∃ y ∈ l, StandsAhead now y x := by
  simp only [List.any_eq_true, aheadOf_iff]

/-- The last entry that stands ahead of the new one parts the queue: behind it none stands ahead, and the insertion
is between the two parts (R99). -/
theorem insertDue_between (now : Tick) (x : Instance) (due : List Instance) : ∃ front back,
    due = front ++ back ∧ insertDue now x due = front ++ x :: back
      ∧ (∀ y ∈ back, ¬StandsAhead now y x) ∧ ∀ y, front.getLast? = some y → StandsAhead now y x := by
  induction due with
  | nil => exact ⟨[], [], rfl, rfl, nofun, nofun⟩
  | cons e rest ih =>
    rw [insertDue]
    split
    · next hahead =>
      rw [any_aheadOf_iff] at hahead
      obtain ⟨front, back, hsplit, hinsert, hback, hlast⟩ := ih
      refine ⟨e :: front, back, congrArg (e :: ·) hsplit, congrArg (e :: ·) hinsert, hback, fun y hy => ?_⟩
      cases front with
      | nil =>
        obtain rfl : e = y := Option.some.inj hy
        obtain rfl : rest = back := hsplit
        obtain ⟨z, hz, hzx⟩ := hahead
        rcases List.mem_cons.1 hz with rfl | hz
        · exact hzx
        · exact absurd hzx (hback z hz)
      | cons f front => exact hlast y hy
    · next hnone =>
      rw [any_aheadOf_iff] at hnone
      exact ⟨[], e :: rest, rfl, rfl, fun y hy h => hnone ⟨y, hy, h⟩, nofun⟩

end Sys2Proof.Machine

open Sys2Proof Sys2Proof.Machine

/-- Settles O42: the choice is its table's row once no release is due, and the insertion parts the queue behind the
last entry ahead of the new one. -/
theorem choiceAndDueQueueOrder : Obligations.ChoiceAndDueQueueOrder := by
  refine ⟨fun s => ⟨settleChoice_pending, fun hstate hnone => ?_⟩, insertDue_between⟩
  obtain ⟨hempty, hboundary⟩ := settleChoice_made hstate hnone
  refine ⟨fun hrun => ?_, fun x hrun => ?_⟩
  · obtain ⟨hidle, hdue, hstack, hboth⟩ := chooseEmpty_rows s
    rw [hempty hrun]
    refine ⟨hidle, hdue, hstack, fun b q a r hd hs => ?_⟩
    rw [hboth b q a r hd hs]
    exact ⟨fun h => if_pos h, fun h => if_neg h.not_gt⟩
  · rw [hboundary x hrun]
    refine ⟨fun b q hd hlt hroom => chooseAtBoundary_preempted hd ⟨hlt, hroom⟩, fun hstays => ?_⟩
    refine chooseAtBoundary_continues fun b q hd ⟨hlt, hroom⟩ => ?_
    exact (hstays b q hd).elim hlt.not_ge hroom.not_ge
end

section
/-! SUPPORT. The end of a stage: which case of R104 applies, and what a fault and a completion leave of the loop entry
(R27, R47, R48, R104). -/

namespace Sys2Proof.Machine

theorem exec_stageCompletion_running {s : State} (h : s.power = .running) :
    exec .stageCompletion s = .next s.stageCompletion := by
  have hexec : exec .stageCompletion s = s.whenRunning State.stageCompletion := rfl
  rw [hexec, State.whenRunning, if_pos h]

/-! ## The case of R104 -/

theorem stageCompletion_of_none {s : State} (h : s.cu.state ≠ .stage ∨ s.cu.running = none) :
    s.stageCompletion = s := by
  unfold State.stageCompletion
  split
  · next x hstage hrun => exact absurd (h.resolve_left (not_not.2 hstage)) (by rw [hrun]; nofun)
  · rfl

/-- An abandoned instance is dropped at the end of its stage, whatever the stage gave (R104). -/
theorem stageCompletion_abandoned {s : State} {x : Instance} (hstage : s.cu.state = .stage)
    (hrun : s.cu.running = some x) (h : x.abandoned = true) :
    s.stageCompletion = s.dropRunning.settleChoice.transmit := by
  unfold State.stageCompletion
  simp only [hstage, hrun, h, if_true]

section

variable {s : State} {x : Instance} {d : Definition} {st : StageDesc}

/-- The stage gave the ARITH mark, and the loop's policy makes that its fault (R49, R104). -/
def State.ArithFaults (s : State) (x : Instance) (d : Definition) (st : StageDesc) : Prop :=
  (s.stageResult x st).arith = true ∧ d.arithPolicy = .fault

theorem stageCompletion_ended (h : EndsStage s x d st) :
    s.stageCompletion = (s.stageEnded x d st).settleChoice.transmit := by
  have hstage := runningStage_eq_some.2 ⟨h.definition, h.desc⟩
  unfold State.stageCompletion
  simp only [h.stage, h.running, h.live, hstage, Bool.false_eq_true, if_false]

theorem stageEnded_faults (h : s.ArithFaults x d st) :
    s.stageEnded x d st = s.dropRunning.faultLoop x.loop flagArith :=
  if_pos h

theorem stageEnded_completes (h : ¬s.ArithFaults x d st) (hlast : d.stages.length ≤ x.nextStage) :
    s.stageEnded x d st = s.dropRunning.complete d (x.enter (s.stageResult x st)) :=
  (if_neg h).trans (if_pos hlast)

theorem stageEnded_enters (h : ¬s.ArithFaults x d st) (hmore : x.nextStage < d.stages.length) :
    s.stageEnded x d st =
      { s with cu := { s.cu with running := some (x.enter (s.stageResult x st)), state := .choice } } :=
  (if_neg h).trans (if_neg hmore.not_ge)

/-! ## The fault -/

/-- With the running slot given up there is nothing of a running instance left to abandon (R27, R104, R113). -/
theorem faultLoop_dropRunning (h : (s.loop x.loop).status = .running) (handed : FlagSet) :
    s.dropRunning.faultLoop x.loop handed = ((s.dropRunning.setLoop x.loop
      { s.loop x.loop with
        state := .faulted, status := .noInstance, nextRelease := none, safeSub := true, outputValid := false }
      ).handAlarms x.loop (handed ||| flagFault)).safeOutput x.loop := by
  have hstatus : (s.dropRunning.loop x.loop).status = .running := h
  rw [faultLoop_eq_place, hstatus]
  rfl

/-! ## The completion -/

/-- The clamped output and the SAT mark of the clamp (R47). -/
theorem clampOutput_eq (h : d.outMin.toInt ≤ d.outMax.toInt) (a : Count) :
    clampOutput d a = BitVec.ofInt 16 (max d.outMin.toInt (min d.outMax.toInt a.toInt)) := by
  rw [clampOutput, clamp_eq_max_min h]
  rfl

theorem finalMarks_eq (h : d.outMin.toInt ≤ d.outMax.toInt) : finalMarks d x =
    { x.marks with
      sat := x.marks.sat || (max d.outMin.toInt (min d.outMax.toInt x.a.toInt) != x.a.toInt) } := by
  rw [finalMarks, clampMarks, clamp_eq_max_min h]

/-- The memory words a completion writes: of a stage of the program its proposal, where it has one, and the seeded
flag; a word behind the program stays (R47). -/
theorem memAfter_eq_ofFn (mem : Vector StageMem 4) (ps : Vector (Option Proposal) 4) (n : Nat) :
    memAfter mem ps n = Vector.ofFn fun k : Fin 4 => if (k : Nat) < n then mem[k].accept ps[k] else mem[k] := by
  refine Vector.ext fun k hk => ?_
  have hproposal : ps.toList.getD k none = ps[k] := by simp [hk]
  rw [Vector.getElem_ofFn, memAfter, Vector.getElem_mapIdx, hproposal]
  rfl

end

end Sys2Proof.Machine

open Sys2Proof Sys2Proof.Machine

/-- Settles O41: with no stage in progress the command does nothing, an abandoned instance is dropped, and the end of
any other stage is the fault, the completion or the entry of its results. -/
theorem stageCompletionEntersOrWrites : Obligations.StageCompletionEntersOrWrites := by
  refine ⟨fun s hpower hnone => ?_, fun s x hpower hstage hrun => ⟨fun habandoned => ?_, ?_⟩⟩
  · rw [exec_stageCompletion_running hpower, stageCompletion_of_none hnone]
  · rw [exec_stageCompletion_running hpower, stageCompletion_abandoned hstage hrun habandoned]
    rfl
  · intro d st hlive hd _ hst hstatus
    have hexec := exec_stageCompletion_running hpower
    rw [stageCompletion_ended ⟨hstage, hrun, by simpa using hlive, hd, hst⟩] at hexec
    refine ⟨fun hnot hmore => hexec.trans ?_, fun hfaults => hexec.trans ?_, fun hnot hlast hrange => hexec.trans ?_⟩
    · rw [stageEnded_enters hnot hmore]
      rfl
    · rw [stageEnded_faults hfaults, faultLoop_dropRunning hstatus]
      rfl
    · rw [stageEnded_completes hnot hlast.ge, State.complete, State.modLoop, LoopEntry.complete, clampOutput_eq hrange,
        finalMarks_eq hrange, memAfter_eq_ofFn]
      rfl
end

section
/-! SUPPORT. What an ALARM offer comes to: taken where there is room, and kept as the owed set where there is none
(R120, R121, R136). -/

namespace Sys2Proof.Machine

/-- The report unit takes in an ALARM report of loop `i`: the store has room for it, or holds a QUEUED one of the loop
(R136). -/
def ReportUnit.RoomFor (u : ReportUnit) (i : LoopId) : Prop :=
  u.store.length < 22 ∨ ∃ e ∈ u.store, e.queuedAlarmOf i = true

/-- The loop entry with another owed set (R121). -/
def LoopEntry.owing (l : LoopEntry) (owed : FlagSet) : LoopEntry := { l with alarms := { l.alarms with owed := owed } }

theorem ReportUnit.offerAlarm_taken {u : ReportUnit} {r : AlarmReport} (h : u.RoomFor r.loop) :
    (u.offerAlarm r).2 = true := by
  unfold ReportUnit.offerAlarm
  split
  · rfl
  · next hnone =>
    rcases h with h | h
    · rw [if_pos (show _ < Config.storeSizeForLoops from h)]
    · exact absurd (List.any_eq_true.2 h) hnone

theorem ReportUnit.offerAlarm_refused {u : ReportUnit} {r : AlarmReport} (h : ¬u.RoomFor r.loop) :
    u.offerAlarm r = (u, false) := by
  obtain ⟨hfull, hnone⟩ := not_or.1 h
  unfold ReportUnit.offerAlarm
  rw [if_neg (mt List.any_eq_true.1 hnone), if_neg (show ¬_ < Config.storeSizeForLoops from hfull)]

theorem State.offerAlarm_taken {s : State} {i : LoopId} (h : s.rep.RoomFor i) (f : FlagSet) : s.offerAlarm i f =
    { s.setLoop i ((s.loop i).owing 0) with rep := (s.rep.offerAlarm ⟨i, (s.loop i).alarms.latched, f⟩).1 } := by
  have htaken := ReportUnit.offerAlarm_taken (u := s.rep) (r := ⟨i, (s.loop i).alarms.latched, f⟩) h
  unfold State.offerAlarm
  split
  · next u hu =>
    rw [hu]
    rfl
  · next u hu =>
    rw [hu] at htaken
    cases htaken

theorem State.offerAlarm_refused {s : State} {i : LoopId} (h : ¬s.rep.RoomFor i) (f : FlagSet) :
    s.offerAlarm i f = s.setLoop i ((s.loop i).owing f) := by
  unfold State.offerAlarm
  rw [ReportUnit.offerAlarm_refused h]
  rfl

/-! ## A changed alarm record and its newly raised flags (R120) -/

theorem raiseAlarm_zero (s : State) (i : LoopId) : s.raiseAlarm i 0 = s := if_pos rfl

section

variable {s : State} {i : LoopId} {newly : FlagSet} (hnewly : newly ≠ 0)
include hnewly

theorem raiseAlarm_setLoop_taken (hroom : s.rep.RoomFor i) (l : LoopEntry) :
    (s.setLoop i l).raiseAlarm i newly = { s.setLoop i (l.owing 0) with
      rep := (s.rep.offerAlarm ⟨i, l.alarms.latched, newly ||| l.alarms.owed⟩).1 } := by
  rw [State.raiseAlarm, if_neg hnewly, State.offerAlarm_taken (s := s.setLoop i l) hroom, loop_setLoop_self,
    setLoop_setLoop, State.setLoop_rep]

theorem raiseAlarm_setLoop_refused (hfull : ¬s.rep.RoomFor i) (l : LoopEntry) :
    (s.setLoop i l).raiseAlarm i newly = s.setLoop i (l.owing (newly ||| l.alarms.owed)) := by
  rw [State.raiseAlarm, if_neg hnewly, State.offerAlarm_refused (s := s.setLoop i l) hfull, loop_setLoop_self,
    setLoop_setLoop]

end

/-- Flags handed for a loop: its entry with the flags latched, the newly raised ones raised, and ALERT_N set anew (R119,
R120, R122). -/
theorem handAlarms_eq (s : State) (i : LoopId) (handed : FlagSet) : s.handAlarms i handed =
    ((s.setLoop i { s.loop i with alarms := (s.loop i).alarms.latch handed }).raiseAlarm i
      (handed &&& ~~~(s.loop i).alarms.latched &&& (s.loop i).alarms.mask)).refreshAlert := rfl

end Sys2Proof.Machine

open Sys2Proof Sys2Proof.Machine

/-- Settles O44: without newly raised flags nothing is offered, and with some the one offer is taken or refused. -/
theorem handedFlagsLatchAndAreOffered : Obligations.HandedFlagsLatchAndAreOffered := by
  refine fun s i handed => ⟨fun hnone => ?_, fun hnewly hroom => ?_, fun hnewly hfull => ?_⟩ <;> rw [handAlarms_eq]
  · rw [hnone, raiseAlarm_zero, refreshAlert_eq]
    rfl
  · rw [raiseAlarm_setLoop_taken hnewly hroom, refreshAlert_eq]
    rfl
  · rw [raiseAlarm_setLoop_refused hnewly hfull, refreshAlert_eq]
    rfl
end

section
/-! SUPPORT. CLEAR_ALARMS and MASK_ALARMS: their checks, and what the named loops come to one after another (R124,
R125). -/

namespace Sys2Proof.Machine

/-! ## The checks (R124, R125, R174) -/

theorem flagsOfByte_eq_none {b : Byte} (h : 31 < b.toNat) : flagsOfByte b = none := if_neg (by omega)

theorem flags_read (m : LoopMask) (f : FlagSet) : flagsOfByte (byteAt (bytes16 m ++ [f.setWidth 8]) 2) = some f :=
  flagsOfByte_flagsByte f

theorem reqClearAlarms_taken (s : State) {m : LoopMask} {f : FlagSet} (hm : m ≠ 0) (hf : f ≠ 0) :
    reqClearAlarms (bytes16 m ++ [f.setWidth 8]) s = acceptMask
      (s.eachNamed m fun i t => t.modLoop i fun l => { l with alarms := l.alarms.clear f }).refreshAlert := by
  unfold reqClearAlarms
  rw [if_neg (by simp [bytes16]), flags_read]
  dsimp only
  rw [word16At_bytes16, if_neg (not_or.2 ⟨hm, hf⟩)]

theorem reqMaskAlarms_taken {s : State} {m : LoopMask} (f : FlagSet) (hm : m ≠ 0)
    (h : ∀ i, names m i = true → (s.loop i).state ≠ .empty) :
    reqMaskAlarms (bytes16 m ++ [f.setWidth 8]) s = acceptMask
      (s.eachNamed m fun i t => t.remask i f).refreshAlert := by
  unfold reqMaskAlarms
  rw [if_neg (by simp [bytes16]), flags_read]
  dsimp only
  rw [word16At_bytes16, if_neg hm, maskRefusal_passed (checks := fun i => checkDefined (s.loop i)) fun i hi =>
    if_neg (h i hi)]

theorem reqClearAlarms_badField (s : State) {m : LoopMask} {f : Byte} (hf : 31 < f.toNat ∨ f = 0) :
    reqClearAlarms (bytes16 m ++ [f]) s = refuseMask s .badField 0 := by
  have hbyte : byteAt (bytes16 m ++ [f]) 2 = f := rfl
  unfold reqClearAlarms
  rw [if_neg (by simp [bytes16]), hbyte]
  rcases hf with hf | rfl
  · rw [flagsOfByte_eq_none hf]
  · exact if_pos (.inr rfl)

theorem reqMaskAlarms_badField (s : State) {m : LoopMask} {f : Byte} (hf : 31 < f.toNat) :
    reqMaskAlarms (bytes16 m ++ [f]) s = refuseMask s .badField 0 := by
  have hbyte : byteAt (bytes16 m ++ [f]) 2 = f := rfl
  unfold reqMaskAlarms
  rw [if_neg (by simp [bytes16]), hbyte, flagsOfByte_eq_none hf]

/-! ## The loops one after another -/

/-- The state once the first `n` loops have had their turn (R15). -/
def State.afterTurns (s : State) (g : LoopId → State → State) (n : Nat) : State :=
  (allLoops.take n).foldl (fun t i => g i t) s

theorem afterTurns_all (s : State) (g : LoopId → State → State) : s.afterTurns g 16 = s.eachLoop g := rfl

theorem afterTurns_succ (s : State) (g : LoopId → State → State) (i : LoopId) :
    s.afterTurns g ((i : Nat) + 1) = g i (s.afterTurns g i) := by
  have htake : ∀ i : LoopId, allLoops.take ((i : Nat) + 1) = allLoops.take i ++ [i] := by decide
  unfold State.afterTurns
  rw [htake, List.foldl_append]
  rfl

section

variable {g : LoopId → State → State} (hne : ∀ i t j, j ≠ i → (g i t).loop j = t.loop j)
include hne

theorem foldl_loop_of_not_mem {l : List LoopId} {j : LoopId} (hj : j ∉ l) (s : State) :
    (l.foldl (fun t i => g i t) s).loop j = s.loop j := by
  induction l generalizing s with
  | nil => rfl
  | cons i rest ih =>
    obtain ⟨hi, hrest⟩ := not_or.1 (mt List.mem_cons.2 hj)
    rw [List.foldl_cons, ih hrest, hne i s j hi]

theorem afterTurns_loop_before (s : State) (i : LoopId) : (s.afterTurns g i).loop i = s.loop i := by
  have hlater : ∀ i : LoopId, i ∉ allLoops.take i := by decide
  exact foldl_loop_of_not_mem hne (hlater i) s

theorem eachLoop_loop_after (s : State) (i : LoopId) :
    (s.eachLoop g).loop i = (s.afterTurns g ((i : Nat) + 1)).loop i := by
  have hearlier : ∀ i : LoopId, i ∉ allLoops.drop ((i : Nat) + 1) := by decide
  rw [State.eachLoop, ← List.take_append_drop ((i : Nat) + 1) allLoops, List.foldl_append]
  exact foldl_loop_of_not_mem hne (hearlier i) _

end

/-! ## MASK_ALARMS at one loop (R125) -/

/-- The loop entry with a new alarm mask (R125). -/
def LoopEntry.remasked (l : LoopEntry) (f : FlagSet) : LoopEntry := { l with alarms := l.alarms.remask f }

theorem remask_eq (s : State) (i : LoopId) (f : FlagSet) : s.remask i f =
    (s.setLoop i ((s.loop i).remasked f)).raiseAlarm i ((s.loop i).alarms.newlyEnabled f) := rfl

theorem remask_only (s : State) (i : LoopId) (f : FlagSet) :
    ∃ u ls, s.remask i f = { s with rep := u, loops := ls } := by
  obtain ⟨u, ls, h⟩ := raiseAlarm_only (s.setLoop i ((s.loop i).remasked f)) i ((s.loop i).alarms.newlyEnabled f)
  exact ⟨u, ls, h⟩

theorem remask_loop_ne (s : State) {i j : LoopId} (f : FlagSet) (h : j ≠ i) : (s.remask i f).loop j = s.loop j := by
  rw [remask_eq, (raiseAlarm_loop _ i _).1 j h, loop_setLoop_ne _ _ h]

section

variable {s : State} {i : LoopId} {l : LoopEntry} {f : FlagSet} (hl : s.loop i = l)
include hl

theorem remask_silent (h : l.alarms.newlyEnabled f = 0) : s.remask i f = s.setLoop i (l.remasked f) := by
  subst hl
  rw [remask_eq, h, raiseAlarm_zero]

theorem remask_taken (h : l.alarms.newlyEnabled f ≠ 0) (hroom : s.rep.RoomFor i) :
    s.remask i f = { s.setLoop i ((l.remasked f).owing 0) with
      rep := (s.rep.offerAlarm ⟨i, l.alarms.latched, l.alarms.newlyEnabled f ||| (l.remasked f).alarms.owed⟩).1 } := by
  subst hl
  rw [remask_eq, raiseAlarm_setLoop_taken h hroom]
  rfl

theorem remask_refused (h : l.alarms.newlyEnabled f ≠ 0) (hfull : ¬s.rep.RoomFor i) :
    s.remask i f =
      s.setLoop i ((l.remasked f).owing (l.alarms.newlyEnabled f ||| (l.remasked f).alarms.owed)) := by
  subst hl
  rw [remask_eq, raiseAlarm_setLoop_refused h hfull]

theorem remask_rep (h : l.alarms.newlyEnabled f ≠ 0) : (s.remask i f).rep =
    (s.rep.offerAlarm ⟨i, l.alarms.latched, l.alarms.newlyEnabled f ||| (l.remasked f).alarms.owed⟩).1 := by
  by_cases hroom : s.rep.RoomFor i
  · rw [remask_taken hl h hroom]
  · rw [remask_refused hl h hroom, ReportUnit.offerAlarm_refused hroom, State.setLoop_rep]

end

/-- The turn of one loop in a MASK_ALARMS that names the loops of `m` (R125). -/
def maskTurn (m : LoopMask) (f : FlagSet) (i : LoopId) (t : State) : State := if names m i then t.remask i f else t

theorem maskTurn_loop_ne (m : LoopMask) (f : FlagSet) (i : LoopId) (t : State) (j : LoopId) (h : j ≠ i) :
    (maskTurn m f i t).loop j = t.loop j := by
  unfold maskTurn
  split
  · exact remask_loop_ne t f h
  · rfl

theorem eachNamed_remask_only (s : State) (m : LoopMask) (f : FlagSet) :
    ∃ u ls, s.eachNamed m (fun i t => t.remask i f) = { s with rep := u, loops := ls } :=
  eachLoop_only (maskTurn m f) (fun i t => by
    unfold maskTurn
    split
    · exact remask_only t i f
    · exact ⟨_, _, rfl⟩) s

section

variable (s : State) {m : LoopMask} (f : FlagSet) {i : LoopId}

theorem afterTurns_unnamed (h : names m i = false) :
    s.afterTurns (maskTurn m f) ((i : Nat) + 1) = s.afterTurns (maskTurn m f) i := by
  rw [afterTurns_succ, maskTurn, if_neg (by simp [h])]

theorem afterTurns_named (h : names m i = true) :
    s.afterTurns (maskTurn m f) ((i : Nat) + 1) = (s.afterTurns (maskTurn m f) i).remask i f := by
  rw [afterTurns_succ, maskTurn, if_pos h]

end

end Sys2Proof.Machine

open Sys2Proof Sys2Proof.Machine

/-- Settles O21: CLEAR_ALARMS is one change of the named records, and of MASK_ALARMS every loop entry is what the loop's
own turn left, the report unit being handed on from turn to turn. -/
theorem clearAndMaskAlarmsAreTaken : Obligations.ClearAndMaskAlarmsAreTaken := by
  refine ⟨fun s tag m f hs hm hf => ?_, fun s tag m f hs hm hdefined => ?_,
    fun s tag f m hs => ⟨fun hf => ?_, fun hf => ?_⟩⟩
  · rw [exec_clearAlarms hs, reqClearAlarms_taken s hm hf, eachNamed_modLoop, refreshAlert_eq, acceptMask_eq]
    rfl
  · have hbefore := afterTurns_loop_before (maskTurn_loop_ne m f) s
    have hafter : ∀ i, (s.eachNamed m fun i t => t.remask i f).refreshAlert.loop i
        = (s.afterTurns (maskTurn m f) ((i : Nat) + 1)).loop i := eachLoop_loop_after (maskTurn_loop_ne m f) s
    refine ⟨fun n => (s.afterTurns (maskTurn m f) n).rep, rfl, fun i hi => ?_, fun i hi hsome => ?_,
      (s.eachNamed m fun i t => t.remask i f).refreshAlert, ?_, ?_, fun i hi => ?_, fun i hi hnone => ?_,
      fun i hi hsome hroom => ?_, fun i hi hsome hfull => ?_⟩
    · by_cases hn : names m i = true
      · have hnone := hi.resolve_left (by simp [hn])
        dsimp only
        rw [afterTurns_named s f hn, remask_silent (hbefore i) hnone, State.setLoop_rep]
      · dsimp only
        rw [afterTurns_unnamed s f (by simpa using hn)]
    · dsimp only
      rw [afterTurns_named s f hi, remask_rep (hbefore i) hsome]
      rfl
    · rw [exec_maskAlarms hs, reqMaskAlarms_taken f hm hdefined, acceptMask_eq]
    · have hrep : (s.afterTurns (maskTurn m f) 16).rep = (s.eachNamed m fun i t => t.remask i f).rep :=
        congrArg State.rep (afterTurns_all s (maskTurn m f))
      obtain ⟨u, ls, honly⟩ := eachNamed_remask_only s m f
      dsimp only
      rw [hrep, honly, refreshAlert_eq]
    · rw [hafter, afterTurns_unnamed s f hi, hbefore]
    · rw [hafter, afterTurns_named s f hi, remask_silent (hbefore i) hnone, loop_setLoop_self]
      rfl
    · rw [hafter, afterTurns_named s f hi, remask_taken (hbefore i) hsome hroom]
      exact loop_setLoop_self _ i _
    · rw [hafter, afterTurns_named s f hi, remask_refused (hbefore i) hsome hfull]
      exact loop_setLoop_self _ i _
  · rw [exec_clearAlarms hs, reqClearAlarms_badField s hf]
    rfl
  · rw [exec_maskAlarms hs, reqMaskAlarms_badField s hf]
    rfl
end

section
/-! SUPPORT. The alarm records, the owed sets and the room in the report store: what keeps them in agreement (R118,
R121, R122, R125, R139). -/

namespace Sys2Proof.Machine

/-! ## Flags latched and enabled in a record (R119 to R125) -/

/-- The flags of `f` are latched and enabled in the record (R121). -/
def AlarmRecord.Carries (r : AlarmRecord) (f : FlagSet) : Prop := f &&& ~~~(r.latched &&& r.mask) = 0

theorem AlarmRecord.carries_iff {r : AlarmRecord} {f : FlagSet} : r.Carries f ↔
    ∀ k, f.getLsbD k = true → r.latched.getLsbD k = true ∧ r.mask.getLsbD k = true := by
  constructor
  · intro h k hk
    have hbit : (f &&& ~~~(r.latched &&& r.mask)).getLsbD k = false := by rw [h]; exact BitVec.getLsbD_zero
    simpa [hk, BitVec.lt_of_getLsbD hk] using hbit
  · refine fun h => BitVec.eq_of_getLsbD_eq fun k _ => ?_
    cases hk : f.getLsbD k with
    | false => simp [hk]
    | true => simp [hk, h k hk]

namespace AlarmRecord

variable {r : AlarmRecord} {f g : FlagSet}

theorem carries_zero (r : AlarmRecord) : r.Carries 0 := BitVec.zero_and

theorem Carries.or (hf : r.Carries f) (hg : r.Carries g) : r.Carries (f ||| g) := by
  rw [carries_iff] at *
  intro k hk
  rw [BitVec.getLsbD_or, Bool.or_eq_true] at hk
  exact hk.elim (hf k) (hg k)

theorem Carries.latch (h : r.Carries f) (handed : FlagSet) : (r.latch handed).Carries f := by
  rw [carries_iff] at *
  exact fun k hk => ⟨by simp [AlarmRecord.latch, h k hk], (h k hk).2⟩

theorem carries_newlyRaised (r : AlarmRecord) (handed : FlagSet) : (r.latch handed).Carries (r.newlyRaised handed) := by
  rw [carries_iff]
  intro k hk
  simp only [newlyRaised, raised, BitVec.getLsbD_and, Bool.and_eq_true] at hk
  exact ⟨by simp [AlarmRecord.latch, hk], hk.2⟩

theorem Carries.clear (h : r.Carries r.owed) (named : FlagSet) : (r.clear named).Carries (r.clear named).owed := by
  rw [carries_iff] at *
  intro k hk
  simp only [AlarmRecord.clear, BitVec.getLsbD_and, Bool.and_eq_true] at hk ⊢
  exact ⟨⟨(h k hk.1).1, hk.2⟩, (h k hk.1).2⟩

theorem Carries.remask (h : r.Carries r.owed) (mask : FlagSet) : (r.remask mask).Carries (r.remask mask).owed := by
  rw [carries_iff] at *
  intro k hk
  simp only [AlarmRecord.remask, BitVec.getLsbD_and, BitVec.getLsbD_not, Bool.and_eq_true] at hk ⊢
  obtain ⟨howed, hkept⟩ := hk
  obtain ⟨hlatched, hmask⟩ := h k howed
  simp only [BitVec.lt_of_getLsbD howed, hmask, decide_true, Bool.true_and, Bool.not_not] at hkept
  exact ⟨hlatched, hkept.2⟩

theorem carries_newlyEnabled (r : AlarmRecord) (mask : FlagSet) : (r.remask mask).Carries (r.newlyEnabled mask) := by
  rw [carries_iff]
  intro k hk
  simp only [newlyEnabled, BitVec.getLsbD_and, Bool.and_eq_true] at hk
  exact ⟨hk.2, hk.1.1⟩

theorem clear_owed_ne_zero {named : FlagSet} (h : (r.clear named).owed ≠ 0) : r.owed ≠ 0 :=
  fun h0 => h (by simp [AlarmRecord.clear, h0])

theorem remask_owed_ne_zero {mask : FlagSet} (h : (r.remask mask).owed ≠ 0) : r.owed ≠ 0 :=
  fun h0 => h (by simp [AlarmRecord.remask, h0])

end AlarmRecord

/-! ## The report store without a new QUEUED ALARM report -/

/-- The store has lost no entry, and no QUEUED ALARM report of a loop has come into it that had none there. -/
structure StoreKeeps (l l' : List ReportEntry) : Prop where
  length : l.length ≤ l'.length
  queued : ∀ i, l'.any (ReportEntry.queuedAlarmOf i) = true → l.any (ReportEntry.queuedAlarmOf i) = true

/-- The change of an entry makes no QUEUED ALARM report of it. -/
def ReportEntry.NoNewAlarm (e e' : ReportEntry) : Prop := ∀ i, e'.queuedAlarmOf i = true → e.queuedAlarmOf i = true

namespace StoreKeeps

variable {l l' l'' : List ReportEntry}

theorem refl (l : List ReportEntry) : StoreKeeps l l := ⟨le_rfl, fun _ h => h⟩

theorem trans (h : StoreKeeps l l') (k : StoreKeeps l' l'') : StoreKeeps l l'' :=
  ⟨h.length.trans k.length, fun i hi => h.queued i (k.queued i hi)⟩

theorem cons {e e' : ReportEntry} (he : e.NoNewAlarm e') (h : StoreKeeps l l') : StoreKeeps (e :: l) (e' :: l') where
  length := by simpa using h.length
  queued i hi := by
    rw [List.any_cons, Bool.or_eq_true] at *
    exact hi.imp (he i) (h.queued i)

theorem append (l : List ReportEntry) {r : Report} (hr : ∀ a, r ≠ .alarm a) : StoreKeeps l (l ++ [queuedEntry r]) where
  length := by simp
  queued i hi := by
    have hno : (queuedEntry r).queuedAlarmOf i = false := by
      cases r with
      | alarm a => exact absurd rfl (hr a)
      | output _ | engine _ | boot _ _ _ => rfl
    simpa [hno] using hi

theorem map {f : ReportEntry → ReportEntry} (hf : ∀ e : ReportEntry, e.NoNewAlarm (f e)) (l : List ReportEntry) :
    StoreKeeps l (l.map f) := by
  induction l with
  | nil => exact .refl _
  | cons e rest ih => exact .cons (hf e) ih

theorem updateFirst {p : ReportEntry → Bool} {f : ReportEntry → ReportEntry}
    (hf : ∀ e : ReportEntry, p e = true → e.NoNewAlarm (f e)) (l : List ReportEntry) : StoreKeeps l (Machine.updateFirst p f l) := by
  induction l with
  | nil => exact .refl _
  | cons e rest ih =>
    rw [Machine.updateFirst]
    split
    · next hp => exact .cons (hf e hp) (.refl rest)
    · exact .cons (fun _ h => h) ih

theorem takeFirst {p : ReportEntry → Bool} {f : ReportEntry → ReportEntry} (hf : ∀ e : ReportEntry, e.NoNewAlarm (f e))
    {e : ReportEntry} (h : Machine.takeFirst p f l = some (e, l')) : StoreKeeps l l' := by
  induction l generalizing l' with
  | nil => cases h
  | cons a rest ih =>
    rw [Machine.takeFirst] at h
    split at h
    · cases h
      exact .cons (hf a) (.refl rest)
    · split at h
      · next x rest' hrest =>
        cases h
        exact .cons (fun _ h => h) (ih hrest)
      · cases h

end StoreKeeps

theorem noNewAlarm_goBack (e : ReportEntry) : e.NoNewAlarm e.goBack := by
  unfold ReportEntry.goBack
  split
  · exact fun i h => nomatch h
  · exact fun i h => h

theorem noNewAlarm_sendAgain (e : ReportEntry) : e.NoNewAlarm e.sendAgain := by
  unfold ReportEntry.sendAgain
  split
  · exact fun i h => nomatch h
  · exact fun i h => h

theorem noNewAlarm_sendFirst (rsn : Byte) (e : ReportEntry) : e.NoNewAlarm (e.sendFirst rsn) :=
  fun _ h => nomatch show false = true from h

theorem noNewAlarm_addDropped (k : BitVec 16) (e : ReportEntry) : e.NoNewAlarm (addDropped k e) := by
  unfold addDropped
  split
  · intro i h
    cases hs : e.state <;> simp [ReportEntry.queuedAlarmOf, hs] at h
  · exact fun i h => h

theorem queuedAlarmOf_iff {i : LoopId} {e : ReportEntry} : e.queuedAlarmOf i = true ↔
    e.state = .queued ∧ ∃ a : AlarmReport, e.report = .alarm a ∧ a.loop = i := by
  unfold ReportEntry.queuedAlarmOf
  split
  · next a hs hr => simp [hs, hr]
  · next h =>
    simp only [Bool.false_eq_true, false_iff]
    rintro ⟨hs, a, hr, -⟩
    exact h a hs hr

theorem noNewAlarm_mergeAlarm {r : AlarmReport} {e : ReportEntry} (h : e.queuedAlarmOf r.loop = true) :
    e.NoNewAlarm (mergeAlarm r e) := by
  obtain ⟨hs, a, hr, ha⟩ := queuedAlarmOf_iff.1 h
  intro i hi
  obtain ⟨-, b, hb, rfl⟩ := queuedAlarmOf_iff.1 hi
  simp only [mergeAlarm, hr, Report.alarm.injEq] at hb
  subst hb
  exact h

namespace ReportUnit

theorem storeKeeps_placeEngine (u : ReportUnit) (e : EngineEvent) : StoreKeeps u.store (u.placeEngine e).store := by
  unfold placeEngine
  split
  · exact .append _ nofun
  · exact .refl _

theorem storeKeeps_offerEngine (u : ReportUnit) (e : EngineEvent) : StoreKeeps u.store (u.offerEngine e).store := by
  unfold offerEngine
  split
  · split
    · exact .updateFirst (fun e _ => noNewAlarm_addDropped _ e) _
    · exact storeKeeps_placeEngine u _
  · exact storeKeeps_placeEngine u _

theorem storeKeeps_offerOutput (u : ReportUnit) (r : OutputReport) : StoreKeeps u.store (u.offerOutput r).1.store := by
  unfold offerOutput
  split
  · refine .updateFirst (fun e _ i hi => ?_) _
    obtain ⟨-, a, ha, -⟩ := queuedAlarmOf_iff.1 hi
    cases ha
  · split
    · exact .append _ nofun
    · exact .refl _

theorem storeKeeps_admitEngineOwed (u : ReportUnit) (owed : List EngineEvent) :
    StoreKeeps u.store (u.admitEngineOwed owed).store := by
  induction owed generalizing u with
  | nil => exact .refl _
  | cons e rest ih =>
    rw [admitEngineOwed]
    split
    · exact (StoreKeeps.append u.store (r := .engine e) nofun).trans (ih (u.append (.engine e)))
    · exact .refl _

@[simp] theorem startTimer_store (u : ReportUnit) : u.startTimer.store = u.store := by
  unfold startTimer
  split <;> rfl

theorem storeKeeps_take {u u' : ReportUnit} {e : ReportEntry} (h : u.take = some (e, u')) :
    StoreKeeps u.store u'.store := by
  unfold take at h
  split at h
  · next e' store hresend =>
    cases h
    rw [startTimer_store]
    split at hresend
    · exact .takeFirst noNewAlarm_sendAgain hresend
    · cases hresend
  · split at h
    · split at h
      · next e' store hqueued =>
        cases h
        rw [startTimer_store]
        exact .takeFirst (noNewAlarm_sendFirst _) hqueued
      · cases h
    · cases h

theorem storeKeeps_expire (u : ReportUnit) : StoreKeeps u.store u.expire.store := by
  have hback := StoreKeeps.map noNewAlarm_goBack u.store
  unfold expire
  split
  · next hnil => rwa [hnil] at hback
  · next e rest hcons =>
    rw [hcons] at hback
    exact hback.trans (.cons (fun _ h => h) (.refl rest))

/-- An ALARM offer is merged or refused, or appended to a store of fewer than 22 entries (R136). -/
theorem offerAlarm_store (u : ReportUnit) (r : AlarmReport) : StoreKeeps u.store (u.offerAlarm r).1.store
    ∨ (u.store.length < 22 ∧ (u.offerAlarm r).1.store = u.store ++ [queuedEntry (.alarm r)]) := by
  unfold offerAlarm
  split
  · exact .inl (.updateFirst (fun e he => noNewAlarm_mergeAlarm he) _)
  · split
    · next hroom => exact .inr ⟨hroom, rfl⟩
    · exact .inl (.refl _)

theorem length_le_offerAlarm (u : ReportUnit) (r : AlarmReport) :
    u.store.length ≤ (u.offerAlarm r).1.store.length := by
  rcases u.offerAlarm_store r with h | ⟨-, h⟩
  · exact h.length
  · simp [h]

/-- An ALARM offer brings no QUEUED ALARM report of another loop into the store (R136). -/
theorem offerAlarm_queued_ne {u : ReportUnit} {r : AlarmReport} {j : LoopId} (hj : j ≠ r.loop)
    (h : u.store.any (ReportEntry.queuedAlarmOf j) = false) :
    (u.offerAlarm r).1.store.any (ReportEntry.queuedAlarmOf j) = false := by
  rcases u.offerAlarm_store r with hk | ⟨-, ha⟩
  · exact Bool.eq_false_iff.2 fun hq => Bool.eq_false_iff.1 h (hk.queued j hq)
  · simp [ha, h, queuedEntry, ReportEntry.queuedAlarmOf, Ne.symm hj]

end ReportUnit

/-! ## The parts of the invariant -/

/-- The owed flags are latched and enabled, and an alarm-owed loop has no QUEUED ALARM report: what holds of the alarm
records even while entries have just left the store (R121, R125). -/
structure OwedInv (s : State) : Prop where
  carried : ∀ i, (s.loop i).alarms.Carries (s.loop i).alarms.owed
  unqueued : ∀ i, (s.loop i).alarms.owed ≠ 0 → s.rep.store.any (ReportEntry.queuedAlarmOf i) = false

/-- A loop is alarm-owed only for want of room (R121, R139). -/
def State.OwedForRoom (s : State) : Prop := ∀ i, (s.loop i).alarms.owed ≠ 0 → 22 ≤ s.rep.store.length

/-- ALERT_N stands at the level the latched, enabled flags give it (R122). -/
def State.AlertFollows (s : State) : Prop :=
  s.alertN = .low ↔ ∃ i, (s.loop i).alarms.latched &&& (s.loop i).alarms.mask ≠ 0

theorem alarmInv_iff {s : State} : AlarmInv s ↔ OwedInv s ∧ s.OwedForRoom ∧ s.AlertFollows := by
  constructor
  · rintro ⟨howed, hpin, hroom⟩
    exact ⟨⟨howed, fun i hi => (hroom i hi).2⟩, fun i hi => (hroom i hi).1, hpin⟩
  · rintro ⟨hinv, hroom, hpin⟩
    exact ⟨hinv.carried, hpin, fun i hi => ⟨hroom i hi, hinv.unqueued i hi⟩⟩

theorem alertFollows_refreshAlert (s : State) : s.refreshAlert.AlertFollows := by
  rw [refreshAlert_eq]
  unfold State.AlertFollows alertLevel
  simp [State.loop]

theorem alarmInv_refreshAlert {s : State} (h : OwedInv s) (hroom : s.OwedForRoom) : AlarmInv s.refreshAlert :=
  alarmInv_iff.2 ⟨⟨h.carried, h.unqueued⟩, hroom, alertFollows_refreshAlert s⟩

theorem State.AlertFollows.congr {s t : State} (h : s.AlertFollows) (hpin : t.alertN = s.alertN)
    (hl : ∀ i, (t.loop i).alarms.latched = (s.loop i).alarms.latched
      ∧ (t.loop i).alarms.mask = (s.loop i).alarms.mask) :
    t.AlertFollows := by
  unfold State.AlertFollows at *
  simp only [hpin, hl, h]

/-! ## Changes of one alarm record -/

theorem forall_loop_setLoop {P : LoopId → LoopEntry → Prop} {s : State} {i : LoopId} {l : LoopEntry} (hi : P i l)
    (h : ∀ j, P j (s.loop j)) (j : LoopId) : P j ((s.setLoop i l).loop j) := by
  rw [loop_setLoop]
  split
  · next hj => exact hj ▸ hi
  · exact h j

/-- The change of one alarm record keeps the owed sets in order where its owed flags are latched and enabled and, if any
are, no QUEUED ALARM report of the loop stands. -/
theorem OwedInv.setLoop {s : State} (h : OwedInv s) {i : LoopId} {l : LoopEntry} (hl : l.alarms.Carries l.alarms.owed)
    (hq : l.alarms.owed ≠ 0 → s.rep.store.any (ReportEntry.queuedAlarmOf i) = false) : OwedInv (s.setLoop i l) where
  carried := forall_loop_setLoop (P := fun _ l => l.alarms.Carries l.alarms.owed) hl h.carried
  unqueued := forall_loop_setLoop
    (P := fun j l => l.alarms.owed ≠ 0 → s.rep.store.any (ReportEntry.queuedAlarmOf j) = false) hq h.unqueued

/-- A change of the report unit keeps the owed sets in order where it brings in no QUEUED ALARM report of an owed
loop. -/
theorem OwedInv.withRep {s : State} (h : OwedInv s) {u : ReportUnit}
    (hu : ∀ j, (s.loop j).alarms.owed ≠ 0 → s.rep.store.any (ReportEntry.queuedAlarmOf j) = false →
      u.store.any (ReportEntry.queuedAlarmOf j) = false) : OwedInv { s with rep := u } :=
  ⟨h.carried, fun j hj => hu j hj (h.unqueued j hj)⟩

theorem State.OwedForRoom.setLoop {s : State} (h : s.OwedForRoom) {i : LoopId} {l : LoopEntry}
    (howed : l.alarms.owed ≠ 0 → (s.loop i).alarms.owed ≠ 0) : (s.setLoop i l).OwedForRoom :=
  forall_loop_setLoop (P := fun _ l => l.alarms.owed ≠ 0 → 22 ≤ s.rep.store.length) (fun hne => h i (howed hne)) h

/-- An ALARM offer of latched, enabled flags keeps the owed sets in order: they become the owed set only where no QUEUED
ALARM report of the loop stands (R120, R121, R136). -/
theorem OwedInv.offerAlarm {s : State} (h : OwedInv s) {i : LoopId} {f : FlagSet} (hf : (s.loop i).alarms.Carries f) :
    OwedInv (s.offerAlarm i f) := by
  by_cases hroom : s.rep.RoomFor i
  · rw [State.offerAlarm_taken hroom]
    have hemptied : OwedInv (s.setLoop i ((s.loop i).owing 0)) :=
      h.setLoop (AlarmRecord.carries_zero _) fun hne => absurd rfl hne
    refine hemptied.withRep fun j hj => ReportUnit.offerAlarm_queued_ne fun hji => hj ?_
    rw [hji, loop_setLoop_self]
    rfl
  · rw [State.offerAlarm_refused hroom]
    exact h.setLoop hf fun _ => Bool.eq_false_iff.2 fun hq => (not_or.1 hroom).2 (List.any_eq_true.1 hq)

theorem length_le_offerAlarm (s : State) (i : LoopId) (f : FlagSet) :
    s.rep.store.length ≤ (s.offerAlarm i f).rep.store.length := by
  by_cases hroom : s.rep.RoomFor i
  · rw [State.offerAlarm_taken hroom]
    exact ReportUnit.length_le_offerAlarm _ _
  · rw [State.offerAlarm_refused hroom, State.setLoop_rep]

/-- Behind an ALARM offer its loop is owed only for want of room (R121, R136). -/
theorem owedForRoom_offerAlarm_self (s : State) (i : LoopId) (f : FlagSet)
    (h : ((s.offerAlarm i f).loop i).alarms.owed ≠ 0) : 22 ≤ (s.offerAlarm i f).rep.store.length := by
  by_cases hroom : s.rep.RoomFor i
  · rw [State.offerAlarm_taken hroom] at h
    exact absurd (congrArg (·.alarms.owed) (loop_setLoop_self s i ((s.loop i).owing 0))) h
  · rw [State.offerAlarm_refused hroom]
    exact Nat.le_of_not_lt (not_or.1 hroom).1

theorem State.OwedForRoom.offerAlarm {s : State} (h : s.OwedForRoom) (i : LoopId) (f : FlagSet) :
    (s.offerAlarm i f).OwedForRoom := by
  intro j hj
  by_cases hji : j = i
  · subst hji
    exact owedForRoom_offerAlarm_self s j f hj
  · rw [(offerAlarm_loop s i f).1 j hji] at hj
    exact (h j hj).trans (length_le_offerAlarm s i f)

/-- Newly raised flags that are latched and enabled keep the owed sets in order, and owed only for want of room (R120,
R121). -/
theorem owedInv_raiseAlarm {s : State} (h : OwedInv s) (hroom : s.OwedForRoom) {i : LoopId} {newly : FlagSet}
    (hnewly : (s.loop i).alarms.Carries newly) :
    OwedInv (s.raiseAlarm i newly) ∧ (s.raiseAlarm i newly).OwedForRoom := by
  unfold State.raiseAlarm
  split
  · exact ⟨h, hroom⟩
  · exact ⟨h.offerAlarm (hnewly.or (h.carried i)), hroom.offerAlarm i _⟩

/-- Flags handed to the alarm unit keep the alarm records, the owed sets and ALERT_N in agreement (R119 to R122). -/
theorem alarmInv_handAlarms {s : State} (h : AlarmInv s) (i : LoopId) (handed : FlagSet) :
    AlarmInv (s.handAlarms i handed) := by
  obtain ⟨hinv, hroom, -⟩ := alarmInv_iff.1 h
  obtain ⟨hinv', hroom'⟩ := owedInv_raiseAlarm (i := i) (newly := (s.loop i).alarms.newlyRaised handed)
    (hinv.setLoop (l := { s.loop i with alarms := (s.loop i).alarms.latch handed }) ((hinv.carried i).latch handed)
      (hinv.unqueued i))
    (hroom.setLoop id) (by rw [loop_setLoop_self]; exact AlarmRecord.carries_newlyRaised _ handed)
  exact alarmInv_refreshAlert hinv' hroom'

/-- A new mask for one loop keeps the owed sets in order (R125). -/
theorem owedInv_remask {s : State} (h : OwedInv s) (hroom : s.OwedForRoom) (i : LoopId) (f : FlagSet) :
    OwedInv (s.remask i f) ∧ (s.remask i f).OwedForRoom :=
  owedInv_raiseAlarm (h.setLoop (l := (s.loop i).remasked f) ((h.carried i).remask f)
    fun hne => h.unqueued i (AlarmRecord.remask_owed_ne_zero hne)) (hroom.setLoop AlarmRecord.remask_owed_ne_zero)
    (by rw [loop_setLoop_self]; exact AlarmRecord.carries_newlyEnabled _ f)

/-! ## Owed offers admitted (R139) -/

/-- The turn of one loop in the admission of the owed offers (R139). -/
def admitTurn (i : LoopId) (t : State) : State :=
  if (t.loop i).alarms.owed ≠ 0 ∧ t.rep.store.length < Config.storeSizeForLoops then
    t.offerAlarm i (t.loop i).alarms.owed
  else t

theorem admitAlarmOwed_eq (s : State) : s.admitAlarmOwed = s.eachLoop admitTurn := rfl

theorem owedInv_admitTurn {s : State} (h : OwedInv s) (i : LoopId) : OwedInv (admitTurn i s) := by
  unfold admitTurn
  split
  · exact h.offerAlarm (h.carried i)
  · exact h

theorem admitTurn_loop_ne (s : State) {i j : LoopId} (h : j ≠ i) : (admitTurn i s).loop j = s.loop j := by
  unfold admitTurn
  split
  · exact (offerAlarm_loop s i _).1 j h
  · rfl

theorem length_le_admitTurn (s : State) (i : LoopId) : s.rep.store.length ≤ (admitTurn i s).rep.store.length := by
  unfold admitTurn
  split
  · exact length_le_offerAlarm s i _
  · exact le_rfl

theorem owedForRoom_admitTurn_self {s : State} {i : LoopId} (h : ((admitTurn i s).loop i).alarms.owed ≠ 0) :
    22 ≤ (admitTurn i s).rep.store.length := by
  unfold admitTurn at *
  split at h
  · next hturn =>
    rw [if_pos hturn]
    exact owedForRoom_offerAlarm_self s i _ h
  · next hturn =>
    rw [if_neg hturn]
    exact Nat.le_of_not_lt fun hlt => hturn ⟨h, hlt⟩

/-- Once every loop has had its turn, only the want of room keeps a loop owed (R139). -/
theorem foldl_admitTurn {l : List LoopId} {s : State} (h : OwedInv s)
    (hdone : ∀ j, j ∉ l → (s.loop j).alarms.owed ≠ 0 → 22 ≤ s.rep.store.length) :
    OwedInv (l.foldl (fun t i => admitTurn i t) s) ∧ (l.foldl (fun t i => admitTurn i t) s).OwedForRoom := by
  induction l generalizing s with
  | nil => exact ⟨h, fun j => hdone j List.not_mem_nil⟩
  | cons i rest ih =>
    refine ih (owedInv_admitTurn h i) fun j hj howed => ?_
    by_cases hji : j = i
    · subst hji
      exact owedForRoom_admitTurn_self howed
    · rw [admitTurn_loop_ne s hji] at howed
      exact (hdone j (by simp [hji, hj]) howed).trans (length_le_admitTurn s i)

theorem admitTurn_level (s : State) (i j : LoopId) : ((admitTurn i s).loop j).alarms.latched = (s.loop j).alarms.latched
    ∧ ((admitTurn i s).loop j).alarms.mask = (s.loop j).alarms.mask := by
  by_cases hji : j = i
  · subst hji
    unfold admitTurn
    split
    · rcases (offerAlarm_loop s j (s.loop j).alarms.owed).2 with h | h <;> simp [h]
    · exact ⟨rfl, rfl⟩
  · rw [admitTurn_loop_ne s hji]
    exact ⟨rfl, rfl⟩

/-- The admission of the owed offers leaves only loops without room owed, and ALERT_N as it is (R139, R122). -/
theorem alarmInv_admitAlarmOwed {s : State} (h : OwedInv s) (ha : s.AlertFollows) : AlarmInv s.admitAlarmOwed := by
  rw [admitAlarmOwed_eq]
  obtain ⟨hinv, hroom⟩ := foldl_admitTurn (l := allLoops) h fun j hj => absurd (mem_allLoops j) hj
  refine alarmInv_iff.2 ⟨hinv, hroom, ha.congr ?_ fun i => ?_⟩
  · obtain ⟨u, ls, honly⟩ := eachLoop_only admitTurn (fun i t => by
      unfold admitTurn
      split
      · exact offerAlarm_only t i _
      · exact ⟨_, _, rfl⟩) s
    rw [honly]
  · have hlevel := eachLoop_at (v := fun t i => ((t.loop i).alarms.latched, (t.loop i).alarms.mask)) (g := fun _ x => x)
      (f := admitTurn) (fun i t j hj => by rw [admitTurn_loop_ne t hj])
      (fun i t => Prod.ext (admitTurn_level t i i).1 (admitTurn_level t i i).2) s i
    exact Prod.mk.inj hlevel

end Sys2Proof.Machine
end

section
/-! SUPPORT. The operations that leave the alarm records and ALERT_N as they are, and bring no QUEUED ALARM report into
the store. -/

namespace Sys2Proof.Machine

/-- Every alarm record and ALERT_N stay as they are; the store loses no entry and gains no QUEUED ALARM report. -/
structure SameAlarms (s t : State) : Prop where
  record : ∀ i, (t.loop i).alarms = (s.loop i).alarms
  alertN : t.alertN = s.alertN
  store : StoreKeeps s.rep.store t.rep.store

namespace SameAlarms

theorem refl (s : State) : SameAlarms s s := ⟨fun _ => rfl, rfl, .refl _⟩

theorem trans {s t u : State} (h : SameAlarms s t) (k : SameAlarms t u) : SameAlarms s u :=
  ⟨fun i => (k.record i).trans (h.record i), k.alertN.trans h.alertN, h.store.trans k.store⟩

theorem of_eq {s t : State} (hl : t.loops = s.loops) (ha : t.alertN = s.alertN) (hst : t.rep.store = s.rep.store) :
    SameAlarms s t :=
  ⟨fun i => by rw [loop_congr hl], ha, hst ▸ .refl _⟩

section

variable {s t : State} (h : SameAlarms s t)
include h

theorem owedInv (hs : OwedInv s) : OwedInv t where
  carried i := h.record i ▸ hs.carried i
  unqueued i hi := Bool.eq_false_iff.2 fun hq =>
    Bool.eq_false_iff.1 (hs.unqueued i (h.record i ▸ hi)) (h.store.queued i hq)

theorem alertFollows (hs : s.AlertFollows) : t.AlertFollows :=
  hs.congr h.alertN fun i => ⟨by rw [h.record], by rw [h.record]⟩

theorem owedForRoom (hs : s.OwedForRoom) : t.OwedForRoom :=
  fun i hi => (hs i (h.record i ▸ hi)).trans h.store.length

theorem alarmInv (hs : AlarmInv s) : AlarmInv t := by
  obtain ⟨hinv, hroom, hpin⟩ := alarmInv_iff.1 hs
  exact alarmInv_iff.2 ⟨h.owedInv hinv, h.owedForRoom hroom, h.alertFollows hpin⟩

end

end SameAlarms

theorem alarmInv_of_eq {s t : State} (h : AlarmInv s) (hl : t.loops = s.loops) (ha : t.alertN = s.alertN)
    (hst : t.rep.store = s.rep.store) : AlarmInv t := (SameAlarms.of_eq hl ha hst).alarmInv h

/-! ## Loop entries and reports -/

theorem sameAlarms_setLoop (s : State) {i : LoopId} {l : LoopEntry} (hl : l.alarms = (s.loop i).alarms) :
    SameAlarms s (s.setLoop i l) where
  record := forall_loop_setLoop (P := fun j l => l.alarms = (s.loop j).alarms) hl fun _ => rfl
  alertN := rfl
  store := .refl _

theorem sameAlarms_modLoop (s : State) (i : LoopId) {f : LoopEntry → LoopEntry}
    (hf : (f (s.loop i)).alarms = (s.loop i).alarms) : SameAlarms s (s.modLoop i f) := sameAlarms_setLoop s hf

theorem sameAlarms_foldl {f : LoopId → State → State} (hf : ∀ i t, SameAlarms t (f i t)) (l : List LoopId) (s : State) :
    SameAlarms s (l.foldl (fun t i => f i t) s) := by
  induction l generalizing s with
  | nil => exact .refl s
  | cons i rest ih => exact (hf i s).trans (ih (f i s))

theorem sameAlarms_eachLoop {f : LoopId → State → State} (hf : ∀ i t, SameAlarms t (f i t)) (s : State) :
    SameAlarms s (s.eachLoop f) := sameAlarms_foldl hf allLoops s

theorem sameAlarms_eachNamed {f : LoopId → State → State} (hf : ∀ i t, SameAlarms t (f i t)) (m : LoopMask)
    (s : State) : SameAlarms s (s.eachNamed m f) :=
  sameAlarms_eachLoop (fun i t => by
    split
    · exact hf i t
    · exact .refl t) s

theorem sameAlarms_offerEngine (s : State) (e : EngineEvent) : SameAlarms s (s.offerEngine e) :=
  ⟨fun _ => rfl, rfl, s.rep.storeKeeps_offerEngine e⟩

theorem offerOutput_rep (s : State) (r : OutputReport) : (s.offerOutput r).rep = (s.rep.offerOutput r).1 := by
  unfold State.offerOutput
  split
  · next u h => rw [h]
  · next u h =>
    rw [h]
    rfl

theorem sameAlarms_offerOutput (s : State) (r : OutputReport) : SameAlarms s (s.offerOutput r) where
  record j := by rcases offerOutput_loop s r j with h | ⟨-, h⟩ <;> rw [h]
  alertN := by
    obtain ⟨u, ls, h⟩ := offerOutput_only s r
    rw [h]
  store := by
    rw [offerOutput_rep]
    exact s.rep.storeKeeps_offerOutput r

theorem sameAlarms_produceOutput (s : State) (r : OutputReport) : SameAlarms s (s.produceOutput r) :=
  (sameAlarms_modLoop s r.loop rfl).trans (sameAlarms_offerOutput _ r)

theorem sameAlarms_safeOutput (s : State) (i : LoopId) : SameAlarms s (s.safeOutput i) := by
  unfold State.safeOutput
  split
  · exact .refl s
  · split
    · exact .refl s
    · exact sameAlarms_produceOutput s _

theorem sameAlarms_completionOutput (s : State) (i : LoopId) (d : Definition) (x : Instance) (m : Marks) :
    SameAlarms s (s.completionOutput i d x m) := by
  unfold State.completionOutput
  dsimp only
  split
  · exact (sameAlarms_modLoop s i rfl).trans (sameAlarms_produceOutput _ _)
  · exact sameAlarms_modLoop s i rfl

/-! ## The computation unit and the modes -/

theorem sameAlarms_endInstance (s : State) (i : LoopId) : SameAlarms s (s.endInstance i) :=
  (SameAlarms.of_eq (s := s) (t := { s with cu := s.cu.endInstance i (s.loop i).status }) rfl rfl rfl).trans
    (sameAlarms_modLoop _ i rfl)

theorem sameAlarms_settleChoice (s : State) : SameAlarms s s.settleChoice := by
  obtain ⟨u, ls, honly⟩ := settleChoice_only s
  exact ⟨fun i => by obtain ⟨a, b, h⟩ := settleChoice_loop s i; rw [h], by rw [honly], by rw [honly]; exact .refl _⟩

theorem sameAlarms_enterHeld (s : State) (i : LoopId) {f : LoopEntry → LoopEntry}
    (hf : (f (s.loop i)).alarms = (s.loop i).alarms) : SameAlarms s (s.enterHeld i f) := by
  unfold State.enterHeld
  dsimp only
  split
  · exact (sameAlarms_modLoop s i hf).trans (sameAlarms_safeOutput _ i)
  · exact sameAlarms_modLoop s i hf

theorem sameAlarms_holdForSafe (s : State) (i : LoopId) : SameAlarms s (s.holdForSafe i) := by
  unfold State.holdForSafe
  split
  · exact sameAlarms_enterHeld s i rfl
  · exact sameAlarms_modLoop s i rfl
  · exact .refl s

theorem sameAlarms_claimSafe (s : State) (c : SafeCause) : SameAlarms s (s.claimSafe c) := by
  unfold State.claimSafe
  split
  · exact .refl s
  · dsimp only
    have hmode : SameAlarms s { s with ctl := { s.ctl with mode := .safe, safeCause := c, safeN := .low } } :=
      .of_eq rfl rfl rfl
    have hheld := (hmode.trans (sameAlarms_offerEngine _ (.safeEntered c))).trans
      (sameAlarms_eachLoop (fun i t => sameAlarms_holdForSafe t i) _)
    have hflush : ∀ t, SameAlarms s t → SameAlarms s (State.settleChoice { t with cu := t.cu.flush }) := fun t h =>
      (h.trans (.of_eq (t := { t with cu := t.cu.flush }) rfl rfl rfl)).trans (sameAlarms_settleChoice _)
    exact hflush _ hheld

theorem sameAlarms_enterRun (s : State) : SameAlarms s s.enterRun := by
  have hmode : SameAlarms s { s with ctl := { s.ctl with mode := .run, safeN := .high } } := .of_eq rfl rfl rfl
  refine (hmode.trans (sameAlarms_offerEngine _ .runEntered)).trans
    (sameAlarms_eachLoop (fun i t => sameAlarms_modLoop t i ?_) _)
  unfold LoopEntry.enterRun
  split <;> rfl

/-! ## The line -/

theorem sameAlarms_startReport (s : State) : SameAlarms s s.startReport := by
  unfold State.startReport
  split
  · exact .refl s
  · next e u h =>
    unfold State.reportOffered at h
    split at h
    · exact ⟨fun _ => rfl, rfl, ReportUnit.storeKeeps_take h⟩
    · cases h

theorem sameAlarms_transmit (s : State) : SameAlarms s s.transmit := by
  unfold State.transmit
  split
  · exact .refl s
  · exact .of_eq rfl rfl rfl
  · exact sameAlarms_startReport s

theorem sameAlarms_transmitAfterResponse (s : State) : SameAlarms s s.transmitAfterResponse := by
  have hcount : SameAlarms s { s with choices := s.choices + 1 } := .of_eq rfl rfl rfl
  unfold State.transmitAfterResponse
  split
  · dsimp only
    split
    · exact hcount.trans (sameAlarms_startReport _)
    · exact hcount.trans (sameAlarms_transmit _)
  · exact sameAlarms_transmit s

theorem sameAlarms_changeLec (s : State) (lec : BitVec 8) : SameAlarms s (s.changeLec lec) := by
  have hlink : SameAlarms s { s with link := { s.link with lec := lec, state := judgeLink s.link.state lec } } :=
    .of_eq rfl rfl rfl
  have hmute : SameAlarms s { s with
      link := { s.link with lec := lec, state := judgeLink s.link.state lec }
      rep := { s.rep with retryTimer := none } } := .of_eq rfl rfl rfl
  have hexit : ∀ t : State, SameAlarms t { t with rep := t.rep.muteExit } := fun t => .of_eq rfl rfl (by
    unfold ReportUnit.muteExit
    split <;> rfl)
  unfold State.changeLec
  dsimp only
  split
  · exact hlink.trans (sameAlarms_offerEngine _ _)
  · exact hlink.trans (sameAlarms_offerEngine _ _)
  · exact (hlink.trans (sameAlarms_offerEngine _ _)).trans (hexit _)
  · exact hmute.trans (sameAlarms_claimSafe _ _)
  · exact hmute.trans (sameAlarms_claimSafe _ _)
  · exact hlink

theorem sameAlarms_lineError (s : State) (f : LinkCounters → LinkCounters) (n : Nat) :
    SameAlarms s ((s.toHunt.modCounters f).raiseLec n).transmit :=
  .trans (t := s.toHunt.modCounters f) (.of_eq rfl rfl rfl) <|
    (sameAlarms_changeLec _ _).trans (sameAlarms_transmit _)

theorem sameAlarms_framingErrorEvent (s : State) : SameAlarms s s.framingErrorEvent := by
  unfold State.framingErrorEvent
  split
  · exact .refl s
  · exact sameAlarms_lineError s _ 4

theorem sameAlarms_arrive (s : State) (kind : Byte) : SameAlarms s (s.arrive kind) := by
  have h : SameAlarms s { s.toHunt.restartSupervision with
      link := { s.toHunt.restartSupervision.link with startUpHold := false } } := .of_eq rfl rfl rfl
  unfold State.arrive
  dsimp only
  split
  · exact h
  · exact h.trans (sameAlarms_changeLec _ _)

theorem sameAlarms_placeInSlot (s : State) (f : Frame) : SameAlarms s (s.placeInSlot f) := by
  unfold State.placeInSlot
  split <;> exact .of_eq rfl rfl rfl

theorem sameAlarms_breakEffects (s : State) : SameAlarms s s.breakEffects := by
  have hbreak : ∀ t, SameAlarms s t → SameAlarms s { t with rep := t.rep.linkBreak } := fun t h =>
    ⟨h.record, h.alertN, h.store.trans (.map noNewAlarm_goBack _)⟩
  unfold State.breakEffects
  dsimp only
  split
  · exact hbreak _ (.of_eq rfl rfl rfl)
  · refine hbreak _ (.trans ?_ (sameAlarms_offerEngine _ .linkReset))
    exact .of_eq rfl rfl rfl

theorem sameAlarms_startUp (s : State) (rxdLow : Bool) : SameAlarms s (s.startUp rxdLow) :=
  ⟨fun _ => rfl, rfl, .append _ nofun⟩

/-! ## Requests -/

theorem sameAlarms_maskRequest {s : State} (p : List Byte) (check : LoopEntry → Option Result)
    {act : LoopMask → State → State} (hact : ∀ m, SameAlarms s (act m s)) :
    SameAlarms s (s.maskRequest p check act).1 := by
  rcases maskRequest_cases s p check act with h | ⟨h, -⟩ <;> rw [h]
  · exact .refl s
  · exact hact _

theorem sameAlarms_armLoop (p : List Byte) (s : State) : SameAlarms s (reqArmLoop p s).1 :=
  sameAlarms_maskRequest p armCheck fun m => sameAlarms_eachNamed (fun i t => sameAlarms_modLoop t i (by
    unfold LoopEntry.arm
    split <;> rfl)) m s

theorem sameAlarms_unholdLoop (p : List Byte) (s : State) : SameAlarms s (reqUnholdLoop p s).1 :=
  sameAlarms_maskRequest p unholdCheck fun m => sameAlarms_eachNamed (fun i t => sameAlarms_modLoop t i rfl) m s

theorem sameAlarms_holdLoop (s : State) (i : LoopId) : SameAlarms s (s.holdLoop i) := by
  unfold State.holdLoop
  split
  · exact .refl s
  · exact (sameAlarms_endInstance s i).trans (sameAlarms_enterHeld _ i rfl)

theorem sameAlarms_reqHoldLoop (p : List Byte) (s : State) : SameAlarms s (reqHoldLoop p s).1 :=
  sameAlarms_maskRequest p holdCheck fun m =>
    (sameAlarms_eachNamed (fun i t => sameAlarms_holdLoop t i) m s).trans (sameAlarms_settleChoice _)

theorem sameAlarms_commit (s : State) (m : LoopMask) {f : LoopEntry → LoopEntry} (hf : ∀ l, (f l).alarms = l.alarms) :
    SameAlarms s (s.commit m f).1 := by
  unfold State.commit
  split
  · exact .refl s
  · split
    · exact .refl s
    · exact sameAlarms_eachNamed (fun i t => sameAlarms_modLoop t i (hf _)) m s

theorem sameAlarms_commitCoef (p : List Byte) (s : State) : SameAlarms s (reqCommitCoef p s).1 := by
  unfold reqCommitCoef
  split
  · exact .refl s
  · split
    · refine sameAlarms_commit s _ fun l => ?_
      unfold LoopEntry.apply
      split <;> rfl
    · exact sameAlarms_commit s _ fun _ => rfl
    · exact .refl s

/-- A LOAD_COEF is refused, or writes coefficient words of one loop alone (R54, R55). -/
theorem loadCoef_cases (p : List Byte) (s : State) : (reqLoadCoef p s).1 = s ∨
    ∃ i k c, (reqLoadCoef p s).1 = s.modLoop i fun l => l.loadCoef k c := by
  unfold reqLoadCoef
  dsimp only
  repeat' split
  any_goals exact .inl rfl
  exact .inr ⟨_, _, _, rfl⟩

/-- A PRESET_LOOP is refused, or writes output and memory of one loop alone (R20). -/
theorem presetLoop_cases (p : List Byte) (s : State) : (reqPresetLoop p s).1 = s ∨
    ∃ i v ws, (reqPresetLoop p s).1 = s.modLoop i fun l => l.preset v ws := by
  unfold reqPresetLoop
  dsimp only
  repeat' split
  any_goals exact .inl rfl
  exact .inr ⟨_, _, _, rfl⟩

theorem sameAlarms_loadCoef (p : List Byte) (s : State) : SameAlarms s (reqLoadCoef p s).1 := by
  rcases loadCoef_cases p s with h | ⟨i, k, c, h⟩ <;> rw [h]
  · exact .refl s
  · exact sameAlarms_modLoop s i rfl

theorem sameAlarms_presetLoop (p : List Byte) (s : State) : SameAlarms s (reqPresetLoop p s).1 := by
  rcases presetLoop_cases p s with h | ⟨i, v, ws, h⟩ <;> rw [h]
  · exact .refl s
  · exact sameAlarms_modLoop s i rfl

theorem sameAlarms_writeSlots (s : State) (now : Tick) (pairs : List (SlotId × Count)) :
    SameAlarms s (s.writeSlots now pairs) := by
  unfold State.writeSlots
  induction pairs generalizing s with
  | nil => exact .refl s
  | cons q rest ih =>
    rw [List.foldl_cons]
    exact (SameAlarms.of_eq (s := s) (t := s.setSlot q.1 ⟨q.2, now, true⟩) rfl rfl rfl).trans (ih _)

theorem sameAlarms_writeSamples (p : List Byte) (s : State) : SameAlarms s (reqWriteSamples p s).1 := by
  unfold reqWriteSamples
  dsimp only
  split
  · exact .refl s
  · split
    · exact .refl s
    · split
      · exact .refl s
      · exact sameAlarms_writeSlots s _ _

theorem sameAlarms_configure (p : List Byte) (s : State) : SameAlarms s (reqConfigure p s).1 := by
  unfold reqConfigure
  dsimp only
  split
  · exact .refl s
  · split
    · exact .refl s
    · split
      · exact .refl s
      · exact .of_eq rfl rfl rfl

theorem sameAlarms_enterSafe (p : List Byte) (s : State) : SameAlarms s (reqEnterSafe p s).1 := by
  unfold reqEnterSafe
  split
  · exact .refl s
  · exact sameAlarms_claimSafe s .host

theorem sameAlarms_resume (p : List Byte) (s : State) : SameAlarms s (reqResume p s).1 := by
  unfold reqResume
  split
  · exact .refl s
  · split
    · exact .refl s
    · split
      · exact .refl s
      · exact sameAlarms_enterRun s

theorem sameAlarms_reset (p : List Byte) (s : State) : SameAlarms s (reqReset p s).1 := by
  unfold reqReset
  split
  · exact .refl s
  · exact .of_eq rfl rfl rfl

theorem sameAlarms_clearCause (p : List Byte) (s : State) : SameAlarms s (reqClearCause p s).1 := by
  unfold reqClearCause
  split
  · exact .refl s
  · exact .of_eq rfl rfl rfl

end Sys2Proof.Machine
end

section
/-! SUPPORT. Every event keeps the alarm records, the owed sets and ALERT_N in agreement: releases, stage completions,
requests, acknowledgements, resets and the line. -/

namespace Sys2Proof.Machine

theorem alarmInv_eachLoop {f : LoopId → State → State} (hf : ∀ i t, AlarmInv t → AlarmInv (f i t)) {s : State}
    (h : AlarmInv s) : AlarmInv (s.eachLoop f) := by
  have hfold : ∀ (l : List LoopId) {t : State}, AlarmInv t → AlarmInv (l.foldl (fun t i => f i t) t) := by
    intro l
    induction l with
    | nil => exact fun ht => ht
    | cons i rest ih => exact fun ht => ih (hf i _ ht)
  exact hfold allLoops h

/-! ## Releases and stage completions -/

theorem alarmInv_faultLoop {s : State} (h : AlarmInv s) (i : LoopId) (handed : FlagSet) :
    AlarmInv (s.faultLoop i handed) :=
  (sameAlarms_safeOutput _ i).alarmInv <| alarmInv_handAlarms (i := i) (handed := handed ||| flagFault) <|
    ((sameAlarms_endInstance s i).trans (sameAlarms_modLoop _ i rfl)).alarmInv h

theorem alarmInv_missRelease {s : State} (h : AlarmInv s) (i : LoopId) (d : Definition) :
    AlarmInv (s.missRelease i d) := by
  have hmissed : AlarmInv (s.modLoop i fun l =>
      { l.advance d with stats := l.stats.incMisses, missCount := satInc l.missCount }) :=
    (sameAlarms_modLoop s i rfl).alarmInv h
  unfold State.missRelease
  dsimp only
  split
  · exact alarmInv_faultLoop hmissed i _
  · exact alarmInv_handAlarms hmissed i _

theorem alarmInv_skipRelease {s : State} (h : AlarmInv s) (i : LoopId) (d : Definition) :
    AlarmInv (s.skipRelease i d) :=
  alarmInv_handAlarms ((sameAlarms_modLoop s i rfl).alarmInv h) i flagStale

theorem taken_alarms (l : LoopEntry) (d : Definition) : (l.taken d).alarms = l.alarms := by
  unfold LoopEntry.taken LoopEntry.commitAtRelease
  split <;> rfl

theorem alarmInv_takeRelease {s : State} (h : AlarmInv s) (i : LoopId) (d : Definition) (stale : Bool) :
    AlarmInv (s.takeRelease i d stale) := by
  have htaken : ∀ u : CompUnit, AlarmInv { s.modLoop i (fun l => l.taken d) with cu := u } := fun u =>
    alarmInv_of_eq ((sameAlarms_modLoop s i (f := fun l => l.taken d) (taken_alarms _ d)).alarmInv h) rfl rfl rfl
  unfold State.takeRelease
  dsimp only
  split
  · exact alarmInv_handAlarms (htaken _) i _
  · exact htaken _

theorem alarmInv_releaseSteps {s : State} (h : AlarmInv s) (i : LoopId) (d : Definition) :
    AlarmInv (s.releaseSteps i d) := by
  unfold State.releaseSteps
  split
  · exact alarmInv_missRelease h i d
  · split
    · split
      · exact alarmInv_takeRelease h i d true
      · exact alarmInv_skipRelease h i d
      · exact alarmInv_faultLoop h i _
    · exact alarmInv_takeRelease h i d false

/-- The choice and the transmitter's choice that end an event (R105, R161). -/
theorem sameAlarms_settled (s : State) : SameAlarms s s.settleChoice.transmit :=
  (sameAlarms_settleChoice s).trans (sameAlarms_transmit _)

theorem alarmInv_releaseEvent {s : State} (h : AlarmInv s) (i : LoopId) : AlarmInv (s.releaseEvent i) := by
  unfold State.releaseEvent
  split
  · exact h
  · next d _ =>
    exact (sameAlarms_settled _).alarmInv (alarmInv_releaseSteps ((sameAlarms_modLoop s i rfl).alarmInv h) i d)

theorem alarmInv_tick {s : State} (h : AlarmInv s) : AlarmInv s.takeDueReleases.tickEvent := by
  have hdue : AlarmInv s.takeDueReleases := alarmInv_eachLoop (fun i t ht => alarmInv_releaseEvent ht i) h
  have htick : ∀ (t : State) (b : TimeBase), SameAlarms t (State.settleChoice { t with time := b }) := fun t b =>
    .trans (t := { t with time := b }) (.of_eq rfl rfl rfl) (sameAlarms_settleChoice _)
  exact (htick _ _).alarmInv hdue

theorem alarmInv_complete {s : State} (h : AlarmInv s) (d : Definition) (x : Instance) : AlarmInv (s.complete d x) :=
  (sameAlarms_completionOutput _ _ d x _).alarmInv <|
    alarmInv_handAlarms ((sameAlarms_modLoop s x.loop rfl).alarmInv h) x.loop (finalMarks d x).flags

theorem alarmInv_stageEnded {s : State} (h : AlarmInv s) (x : Instance) (d : Definition) (st : StageDesc) :
    AlarmInv (s.stageEnded x d st) := by
  have hdrop : AlarmInv s.dropRunning := alarmInv_of_eq h rfl rfl rfl
  unfold State.stageEnded
  dsimp only
  split
  · exact alarmInv_faultLoop hdrop _ _
  · split
    · exact alarmInv_complete hdrop d _
    · exact alarmInv_of_eq h rfl rfl rfl

theorem alarmInv_stageCompletion {s : State} (h : AlarmInv s) : AlarmInv s.stageCompletion := by
  have hdrop : AlarmInv s.dropRunning := alarmInv_of_eq h rfl rfl rfl
  unfold State.stageCompletion
  split
  · next x _ _ =>
    refine (sameAlarms_settled _).alarmInv ?_
    split
    · exact hdrop
    · split
      · exact hdrop
      · next d st _ => exact alarmInv_stageEnded h x d st
  · exact h

/-! ## Requests -/

/-- A loop entry that is not owed, put in place of another, keeps the owed sets in order (R14, R19, R126). -/
theorem owedInv_setLoop_fresh {s : State} (h : OwedInv s) (hroom : s.OwedForRoom) (i : LoopId) {l : LoopEntry}
    (hl : l.alarms.owed = 0) : OwedInv (s.setLoop i l) ∧ (s.setLoop i l).OwedForRoom :=
  ⟨h.setLoop (by rw [hl]; exact AlarmRecord.carries_zero _) fun hne => absurd hl hne,
    hroom.setLoop fun hne => absurd hl hne⟩

theorem alarmInv_defineLoop (p : List Byte) {s : State} (h : AlarmInv s) : AlarmInv (reqDefineLoop p s).1 := by
  unfold reqDefineLoop
  split
  · exact h
  · split
    · next i d bank _ _ =>
      split
      · obtain ⟨hinv, hroom, -⟩ := alarmInv_iff.1 h
        obtain ⟨hinv', hroom'⟩ := owedInv_setLoop_fresh hinv hroom i (l := definedEntry d bank) rfl
        exact alarmInv_refreshAlert hinv' hroom'
      · exact h
    · exact h

/-- What is done for the named loops keeps the owed sets in order where it does for each. -/
theorem owedInv_eachNamed {f : LoopId → State → State}
    (hf : ∀ i t, OwedInv t → t.OwedForRoom → OwedInv (f i t) ∧ (f i t).OwedForRoom) (m : LoopMask) {s : State}
    (h : AlarmInv s) : OwedInv (s.eachNamed m f) ∧ (s.eachNamed m f).OwedForRoom := by
  have hfold : ∀ (l : List LoopId) (t : State), OwedInv t ∧ t.OwedForRoom →
      OwedInv (l.foldl (fun t i => if names m i then f i t else t) t)
        ∧ (l.foldl (fun t i => if names m i then f i t else t) t).OwedForRoom := by
    intro l
    induction l with
    | nil => exact fun t ht => ht
    | cons i rest ih =>
      refine fun t ht => ih _ ?_
      dsimp only
      split
      · exact hf i t ht.1 ht.2
      · exact ht
  obtain ⟨hinv, hroom, -⟩ := alarmInv_iff.1 h
  exact hfold allLoops s ⟨hinv, hroom⟩

theorem owedInv_clearLoop {s : State} (h : OwedInv s) (hroom : s.OwedForRoom) (i : LoopId) :
    OwedInv (s.clearLoop i) ∧ (s.clearLoop i).OwedForRoom := by
  have hend := sameAlarms_endInstance s i
  unfold State.clearLoop
  split
  · exact ⟨h, hroom⟩
  · exact owedInv_setLoop_fresh (hend.owedInv h) (hend.owedForRoom hroom) i rfl

theorem alarmInv_clearLoop (p : List Byte) {s : State} (h : AlarmInv s) : AlarmInv (reqClearLoop p s).1 := by
  rcases maskRequest_cases s p (fun _ => none)
    (fun m t => (t.eachNamed m fun i u => u.clearLoop i).refreshAlert.settleChoice) with he | ⟨he, -⟩
  · rw [reqClearLoop, he]
    exact h
  · rw [reqClearLoop, he]
    obtain ⟨hinv, hroom⟩ := owedInv_eachNamed (fun i t hi hr => owedInv_clearLoop hi hr i) (word16At p 0) h
    exact (sameAlarms_settleChoice _).alarmInv (alarmInv_refreshAlert hinv hroom)

theorem owedInv_clear {s : State} (h : OwedInv s) (hroom : s.OwedForRoom) (i : LoopId) (named : FlagSet) :
    OwedInv (s.modLoop i fun l => { l with alarms := l.alarms.clear named })
      ∧ (s.modLoop i fun l => { l with alarms := l.alarms.clear named }).OwedForRoom :=
  ⟨h.setLoop ((h.carried i).clear named) fun hne => h.unqueued i (AlarmRecord.clear_owed_ne_zero hne),
    hroom.setLoop AlarmRecord.clear_owed_ne_zero⟩

theorem alarmInv_clearAlarms (p : List Byte) {s : State} (h : AlarmInv s) : AlarmInv (reqClearAlarms p s).1 := by
  unfold reqClearAlarms
  split
  · exact h
  · split
    · exact h
    · next named _ =>
      split
      · exact h
      · obtain ⟨hinv, hroom⟩ := owedInv_eachNamed (fun i t hi hr => owedInv_clear hi hr i named) (word16At p 0) h
        exact alarmInv_refreshAlert hinv hroom

theorem alarmInv_maskAlarms (p : List Byte) {s : State} (h : AlarmInv s) : AlarmInv (reqMaskAlarms p s).1 := by
  unfold reqMaskAlarms
  split
  · exact h
  · split
    · exact h
    · next newMask _ =>
      split
      · exact h
      · split
        · exact h
        · obtain ⟨hinv, hroom⟩ := owedInv_eachNamed (fun i t hi hr => owedInv_remask hi hr i newMask) (word16At p 0) h
          exact alarmInv_refreshAlert hinv hroom

theorem alarmInv_judge (f : Frame) {s : State} (h : AlarmInv s) : AlarmInv (judge f s).1 := by
  obtain ⟨h1, h2, h3, h4, h5, h6, h7⟩ := reqReads_only f.payload s
  unfold judge carryOut
  split
  · next r hr =>
    split at hr <;> cases hr
    · rwa [h1]
    · rwa [h2]
    · exact (sameAlarms_configure _ s).alarmInv h
    · rwa [h3]
    · exact (sameAlarms_enterSafe _ s).alarmInv h
    · exact (sameAlarms_resume _ s).alarmInv h
    · exact (sameAlarms_reset _ s).alarmInv h
    · exact (sameAlarms_clearCause _ s).alarmInv h
    · exact alarmInv_defineLoop _ h
    · exact (sameAlarms_armLoop _ s).alarmInv h
    · exact (sameAlarms_reqHoldLoop _ s).alarmInv h
    · exact (sameAlarms_unholdLoop _ s).alarmInv h
    · exact alarmInv_clearLoop _ h
    · rwa [h4]
    · exact (sameAlarms_presetLoop _ s).alarmInv h
    · exact (sameAlarms_loadCoef _ s).alarmInv h
    · exact (sameAlarms_commitCoef _ s).alarmInv h
    · rwa [h5]
    · exact (sameAlarms_writeSamples _ s).alarmInv h
    · rwa [h6]
    · rwa [h7]
    · exact alarmInv_clearAlarms _ h
    · exact alarmInv_maskAlarms _ h
  · exact h

theorem alarmInv_serve (f : Frame) {s : State} (h : AlarmInv s) : AlarmInv (s.serve f) :=
  ((SameAlarms.of_eq (s := (judge f s).1) (t := (judge f s).1.respond f (judge f s).2) rfl rfl rfl).trans
    (sameAlarms_transmitAfterResponse _)).alarmInv (alarmInv_judge f h)

theorem alarmInv_dispatchUpTo (n : Nat) {s : State} (h : AlarmInv s) : AlarmInv (s.dispatchUpTo n) := by
  induction n generalizing s with
  | zero => exact h
  | succ n ih =>
    unfold State.dispatchUpTo
    split
    · exact h
    · next f rest _ =>
      split
      · have hslot : AlarmInv { s with link := { s.link with slots := rest } } :=
          alarmInv_of_eq h rfl rfl rfl
        exact ih (alarmInv_serve f hslot)
      · exact h

theorem alarmInv_submit (kind tag : Byte) (p : List Byte) {s : State} (h : AlarmInv s) :
    AlarmInv (s.submit kind tag p) :=
  alarmInv_dispatchUpTo _ ((sameAlarms_placeInSlot s _).alarmInv h)

/-! ## Entries that leave the store (R139, R145, R146) -/

/-- The loss of entries makes no QUEUED ALARM report. -/
theorem OwedInv.of_removed {s : State} (h : OwedInv s) {u : ReportUnit} (hu : ∀ e ∈ u.store, e ∈ s.rep.store) :
    OwedInv { s with rep := u } :=
  h.withRep fun i _ hnone => by
    rw [List.any_eq_false] at *
    exact fun e he => hnone e (hu e he)

/-- The owed reports admitted once entries have left the store restore the invariant (R139). -/
theorem alarmInv_admitOwed {s : State} (h : OwedInv s) (ha : s.AlertFollows) : AlarmInv s.admitOwed := by
  have hengine : SameAlarms s { s with rep := s.rep.admitEngineOwed s.rep.engineOwed } :=
    ⟨fun _ => rfl, rfl, s.rep.storeKeeps_admitEngineOwed _⟩
  exact alarmInv_admitAlarmOwed (hengine.owedInv h) (hengine.alertFollows ha)

theorem mem_of_mem_afterRsn {a : Byte} {l rest : List ReportEntry} (h : afterRsn a l = some rest) :
    ∀ e ∈ rest, e ∈ l := by
  induction l with
  | nil => cases h
  | cons x l ih =>
    rw [afterRsn] at h
    split at h
    · cases h
      exact fun e he => List.mem_cons_of_mem x he
    · exact fun e he => List.mem_cons_of_mem x (ih h e he)

theorem alarmInv_withTimer {s : State} (h : AlarmInv s) (mute : Bool) :
    AlarmInv { s with rep := s.rep.rearmTimer mute } := alarmInv_of_eq h rfl rfl rfl

theorem alarmInv_acknowledge {s : State} (h : AlarmInv s) (a : Byte) (w : Nat) : AlarmInv (s.acknowledge a w) := by
  unfold State.acknowledge
  split
  · exact alarmInv_of_eq h rfl rfl rfl
  · next rest hrest =>
    obtain ⟨hinv, -, hpin⟩ := alarmInv_iff.1 h
    have hremoved : OwedInv { s with rep := { s.rep with store := rest, window := w } } :=
      hinv.of_removed (mem_of_mem_afterRsn hrest)
    exact alarmInv_withTimer (alarmInv_admitOwed hremoved hpin) _

theorem alarmInv_passAck {s : State} (h : AlarmInv s) (p : List Byte) : AlarmInv (s.passAck p) := by
  unfold State.passAck
  split
  · exact alarmInv_of_eq h rfl rfl rfl
  · exact alarmInv_acknowledge h _ _

theorem alarmInv_dropFirst {s : State} (h : AlarmInv s) : AlarmInv s.dropFirst := by
  obtain ⟨hinv, -, hpin⟩ := alarmInv_iff.1 h
  have hremoved : OwedInv
      { s with rep := { s.rep with store := s.rep.store.tail, droppedCount := satInc s.rep.droppedCount } } :=
    hinv.of_removed fun _ => List.mem_of_mem_tail
  have hlec := sameAlarms_changeLec
    { s with rep := { s.rep with store := s.rep.store.tail, droppedCount := satInc s.rep.droppedCount } }
    (BitVec.ofNat 8 (min 255 (s.link.lec.toNat + 8)))
  exact (sameAlarms_offerEngine _ _).alarmInv (alarmInv_admitOwed (hlec.owedInv hremoved) (hlec.alertFollows hpin))

theorem alarmInv_retryExpiry {s : State} (h : AlarmInv s) : AlarmInv s.retryExpiry := by
  have hexpired : AlarmInv { s with rep := s.rep.expire } :=
    SameAlarms.alarmInv (s := s) ⟨fun _ => rfl, rfl, s.rep.storeKeeps_expire⟩ h
  unfold State.retryExpiry
  dsimp only
  refine (sameAlarms_transmit _).alarmInv (alarmInv_withTimer (s := if _ then _ else _) ?_ _)
  split
  · exact alarmInv_dropFirst hexpired
  · exact hexpired

/-! ## Resets and the line -/

theorem alarmInv_fullReset (s : State) (c : ResetCause) (flag : Bool) (straps : Straps) :
    AlarmInv (s.fullReset c flag straps) := by
  have hloop : ∀ i, (s.fullReset c flag straps).loop i = LoopEntry.reset := loop_replicate_reset rfl
  have hpin : (s.fullReset c flag straps).alertN = .high := rfl
  refine alarmInv_iff.2 ⟨⟨fun i => ?_, fun i hi => ?_⟩, fun i hi => ?_, ?_⟩
  · rw [hloop]
    exact AlarmRecord.carries_zero _
  · exact absurd (congrArg (·.alarms.owed) (hloop i)) hi
  · exact absurd (congrArg (·.alarms.owed) (hloop i)) hi
  · simp [State.AlertFollows, hloop, hpin, LoopEntry.reset]

theorem alarmInv_commandReset (s : State) (straps : Straps) (rxdLow : Bool) :
    AlarmInv (s.commandReset straps rxdLow) :=
  (sameAlarms_startUp _ rxdLow).alarmInv (alarmInv_fullReset s _ _ straps)

theorem alarmInv_breakEvent {s : State} (h : AlarmInv s) (straps : Straps) : AlarmInv (s.breakEvent straps) := by
  unfold State.breakEvent
  split
  · exact h
  · split
    · exact alarmInv_commandReset _ straps true
    · exact ((sameAlarms_breakEffects s).trans (sameAlarms_transmit _)).alarmInv h

theorem alarmInv_goodFrame {s : State} (h : AlarmInv s) (kind tag : Byte) (p : List Byte) :
    AlarmInv (s.goodFrame kind tag p) := by
  have harrived := (sameAlarms_arrive s kind).alarmInv h
  unfold State.goodFrame
  split
  · exact (sameAlarms_transmit _).alarmInv (alarmInv_passAck harrived p)
  · exact (sameAlarms_transmit _).alarmInv (alarmInv_submit kind tag p harrived)

theorem alarmInv_receiveByte {s : State} (h : AlarmInv s) (b : Byte) : AlarmInv (s.receiveByte b) := by
  have hrx : ∀ rx, AlarmInv (s.receiving rx) := fun rx => alarmInv_of_eq h rfl rfl rfl
  unfold State.receiveByte
  split
  · split
    · exact hrx _
    · exact h
  · exact hrx _
  · exact hrx _
  · unfold State.lengthByte
    split
    · exact (sameAlarms_lineError s _ 8).alarmInv h
    · split <;> exact hrx _
  · dsimp only
    split <;> exact hrx _
  · exact hrx _
  · unfold State.frameEnded
    split
    · exact alarmInv_goodFrame h _ _ _
    · exact (sameAlarms_lineError s _ 8).alarmInv h

theorem alarmInv_frameEndEvent {s : State} (h : AlarmInv s) (straps : Straps) (rxdLow : Bool) :
    AlarmInv (s.frameEndEvent straps rxdLow) := by
  unfold State.frameEndEvent
  split
  · exact h
  · exact alarmInv_commandReset s straps rxdLow
  · have hidle : AlarmInv { s with link := { s.link with tx := .idle } } :=
      alarmInv_of_eq h rfl rfl rfl
    exact alarmInv_dispatchUpTo _ ((sameAlarms_transmit _).alarmInv hidle)

/-! ## The commands -/

section

variable {s t : State} (hs : AlarmInv s) {f : State → State} (hf : ∀ u, AlarmInv u → AlarmInv (f u))
include hs hf

theorem alarmInv_whenRunning (h : s.whenRunning f = .next t) : AlarmInv t := by
  unfold State.whenRunning at h
  cases h
  split
  · exact hf s hs
  · exact hs

theorem alarmInv_whenTaking (h : s.whenTaking f = .next t) : AlarmInv t :=
  alarmInv_whenRunning hs (fun u hu => by
    split
    · exact hf u hu
    · exact hu) h

end

/-- A command's meaning keeps the alarm records, the owed sets and ALERT_N in agreement. -/
theorem alarmInv_exec {c : Instr} {s t : State} (hs : AlarmInv s) (h : exec c s = .next t) : AlarmInv t := by
  have hlink : ∀ (u : State) (l : LinkUnit), SameAlarms u { u with link := l } := fun u l => .of_eq rfl rfl rfl
  cases hf : requestFrame c with
  | some fr =>
    rw [exec_request hf] at h
    exact alarmInv_whenRunning hs (fun _ hu => alarmInv_submit _ _ _ hu) h
  | none =>
    cases c <;> simp only [requestFrame, reduceCtorEq] at hf
    case reportAck tag p => exact alarmInv_whenTaking hs (fun _ hu => alarmInv_goodFrame hu _ tag p) h
    case goodFrame kind tag p => exact alarmInv_whenTaking hs (fun _ hu => alarmInv_goodFrame hu kind tag p) h
    case crcError => exact alarmInv_whenTaking hs (fun u hu => (sameAlarms_lineError u _ 8).alarmInv hu) h
    case lengthError => exact alarmInv_whenTaking hs (fun u hu => (sameAlarms_lineError u _ 8).alarmInv hu) h
    case framingError data =>
      simp only [exec, execFramingError] at h
      refine alarmInv_whenTaking hs (fun u hu => ?_) h
      split
      · exact (hlink u _).alarmInv hu
      · exact (sameAlarms_framingErrorEvent u).alarmInv hu
    case gapTimerExpiry =>
      simp only [exec, execGapTimerExpiry] at h
      refine alarmInv_whenRunning hs (fun u hu => ?_) h
      split
      · exact (sameAlarms_lineError u _ 4).alarmInv hu
      · exact hu
    case lineBreak straps => exact alarmInv_whenRunning hs (fun _ hu => alarmInv_breakEvent hu straps) h
    case startUpHoldEnd =>
      simp only [exec, execStartUpHoldEnd] at h
      refine alarmInv_whenTaking hs (fun u hu => ?_) h
      split
      · exact ((hlink u _).trans (sameAlarms_transmit _)).alarmInv hu
      · exact hu
    case powerOnReset straps =>
      cases h
      exact alarmInv_fullReset s _ _ straps
    case pinReset straps =>
      cases h
      exact alarmInv_fullReset s _ _ straps
    case startUp rxdLow =>
      cases h
      split
      · exact (sameAlarms_startUp s rxdLow).alarmInv hs
      · exact hs
    case frameEnd straps rxdLow =>
      exact alarmInv_whenRunning hs (fun _ hu => alarmInv_frameEndEvent hu straps rxdLow) h
    case tick => exact alarmInv_whenRunning hs (fun _ hu => alarmInv_tick hu) h
    case release i => exact alarmInv_whenRunning hs (fun _ hu => alarmInv_releaseEvent hu i) h
    case stageCompletion => exact alarmInv_whenRunning hs (fun _ hu => alarmInv_stageCompletion hu) h
    case retryTimerExpiry =>
      simp only [exec, execRetryTimerExpiry] at h
      refine alarmInv_whenRunning hs (fun u hu => ?_) h
      split
      · exact alarmInv_retryExpiry hu
      · exact hu
    case supervisionExpiry =>
      simp only [exec, execSupervisionExpiry] at h
      refine alarmInv_whenRunning hs (fun u hu => ?_) h
      split
      · exact (sameAlarms_transmit _).alarmInv
          (alarmInv_of_eq ((sameAlarms_claimSafe u .supervision).alarmInv hu) rfl rfl rfl)
      · exact hu
    case byteReceived b => exact alarmInv_whenTaking hs (fun _ hu => alarmInv_receiveByte hu b) h
    case rxdReturnsHigh =>
      simp only [exec, execRxdReturnsHigh] at h
      refine alarmInv_whenRunning hs (fun u hu => ?_) h
      split
      · exact ((hlink u _).trans (sameAlarms_framingErrorEvent _)).alarmInv hu
      · exact (hlink u _).alarmInv hu

end Sys2Proof.Machine

open Sys2Proof Sys2Proof.Machine

/-- Settles O58, command by command: most operations leave the alarm records alone and bring no QUEUED ALARM report, and
those that change a record or let entries leave the store keep or restore the owed sets and set ALERT_N anew. -/
theorem alarmRecordsStayConsistent : Obligations.AlarmRecordsStayConsistent := by
  intro s t hs h
  unfold step at h
  split at h
  · cases h
    exact hs
  · next c rest _ => exact alarmInv_exec (s := s.withPending rest) (alarmInv_of_eq hs rfl rfl rfl) h
end

section
/-! SUPPORT. The report store as a list: the first entry with a property changed or taken, and the entries that an offer
joins (R130, R135 to R137, R141, R142). -/

namespace Sys2Proof.Machine

/-! ## The first entry with a property -/

section

variable {α β : Type} {p : α → Bool} {f : α → α} {pre post : List α} {e : α}

theorem updateFirst_split (hpre : ∀ x ∈ pre, p x = false) (he : p e = true) :
    updateFirst p f (pre ++ e :: post) = pre ++ f e :: post := by
  induction pre with
  | nil => simp [updateFirst, he]
  | cons x pre ih =>
    rw [List.forall_mem_cons] at hpre
    simp [updateFirst, hpre.1, ih hpre.2]

/-- A change of the first entry leaves what is read of every entry, where it leaves what is read of that one. -/
theorem map_updateFirst {g : α → β} (hf : ∀ x, p x = true → g (f x) = g x) (l : List α) :
    (updateFirst p f l).map g = l.map g := by
  induction l with
  | nil => rfl
  | cons x l ih =>
    rw [updateFirst]
    split
    · next hp => simp [hf x hp]
    · simp [ih]

theorem takeFirst_split (hpre : ∀ x ∈ pre, p x = false) (he : p e = true) :
    takeFirst p f (pre ++ e :: post) = some (f e, pre ++ f e :: post) := by
  induction pre with
  | nil => simp [takeFirst, he]
  | cons x pre ih =>
    rw [List.forall_mem_cons] at hpre
    simp [takeFirst, hpre.1, ih hpre.2]

theorem takeFirst_none {l : List α} (h : ∀ x ∈ l, p x = false) : takeFirst p f l = none := by
  induction l with
  | nil => rfl
  | cons x l ih =>
    rw [List.forall_mem_cons] at h
    simp [takeFirst, h.1, ih h.2]

theorem takeFirst_eq_some {l l' : List α} {x : α} (h : takeFirst p f l = some (x, l')) : ∃ pre e post,
    l = pre ++ e :: post ∧ (∀ y ∈ pre, p y = false) ∧ p e = true ∧ x = f e ∧ l' = pre ++ f e :: post := by
  induction l generalizing l' with
  | nil => cases h
  | cons a l ih =>
    rw [takeFirst] at h
    split at h
    · next ha =>
      cases h
      exact ⟨[], a, l, rfl, by simp, ha, rfl, rfl⟩
    · next ha =>
      split at h
      · next y rest hrest =>
        cases h
        obtain ⟨pre, e, post, rfl, hpre, he, hx, rfl⟩ := ih hrest
        exact ⟨a :: pre, e, post, rfl, List.forall_mem_cons.2 ⟨Bool.eq_false_iff.2 ha, hpre⟩, he, hx, rfl⟩
      · cases h

theorem any_false_of_forall {l : List α} (h : ∀ x ∈ l, p x = false) : l.any p = false :=
  List.any_eq_false.2 fun x hx => Bool.eq_false_iff.1 (h x hx)

end

/-! ## The entries an offer joins (R135 to R137) -/

theorem queuedOutputOf_iff {i : LoopId} {e : ReportEntry} : e.queuedOutputOf i = true ↔
    e.state = .queued ∧ ∃ o : OutputReport, e.report = .output o ∧ o.loop = i := by
  unfold ReportEntry.queuedOutputOf
  split
  · next o hs hr => simp [hs, hr]
  · next h =>
    simp only [Bool.false_eq_true, false_iff]
    rintro ⟨hs, o, hr, -⟩
    exact h o hs hr

theorem queuedDropped_iff {e : ReportEntry} : e.queuedDropped = true ↔
    e.state = .queued ∧ ∃ n, e.report = .engine (.reportsDropped n) := by
  unfold ReportEntry.queuedDropped
  split
  · next n hs hr => simp [hs, hr]
  · next h =>
    simp only [Bool.false_eq_true, false_iff]
    rintro ⟨hs, n, hr⟩
    exact h n hs hr

theorem isResend_iff {e : ReportEntry} : e.isResend = true ↔ ∃ r, e.state = .resend r := by
  cases h : e.state <;> simp [ReportEntry.isResend, h]

theorem isQueued_iff {e : ReportEntry} : e.isQueued = true ↔ e.state = .queued := by
  cases h : e.state <;> simp [ReportEntry.isQueued, h]

theorem isResend_eq_false {e : ReportEntry} (h : ∀ r, e.state ≠ .resend r) : e.isResend = false :=
  Bool.eq_false_iff.2 fun hr => (isResend_iff.1 hr).elim h

theorem isQueued_eq_false {e : ReportEntry} (h : e.state ≠ .queued) : e.isQueued = false :=
  Bool.eq_false_iff.2 fun hq => h (isQueued_iff.1 hq)

namespace ReportUnit

/-! ## Offers -/

theorem offerOutput_appended {u : ReportUnit} {r : OutputReport}
    (hnone : u.store.any (ReportEntry.queuedOutputOf r.loop) = false) (hroom : u.store.length < 22) :
    u.offerOutput r = (u.append (.output r), true) := by
  rw [offerOutput, hnone, if_neg Bool.false_ne_true, if_pos (show _ < Config.storeSizeForLoops from hroom)]

theorem offerOutput_refused {u : ReportUnit} {r : OutputReport}
    (hnone : u.store.any (ReportEntry.queuedOutputOf r.loop) = false) (hfull : 22 ≤ u.store.length) :
    u.offerOutput r = (u, false) := by
  rw [offerOutput, hnone, if_neg Bool.false_ne_true, if_neg (show ¬_ < Config.storeSizeForLoops from Nat.not_lt.2 hfull)]

theorem offerAlarm_appended {u : ReportUnit} {r : AlarmReport}
    (hnone : u.store.any (ReportEntry.queuedAlarmOf r.loop) = false) (hroom : u.store.length < 22) :
    u.offerAlarm r = (u.append (.alarm r), true) := by
  rw [offerAlarm, hnone, if_neg Bool.false_ne_true, if_pos (show _ < Config.storeSizeForLoops from hroom)]

theorem placeEngine_appended {u : ReportUnit} (hroom : u.store.length < 24) (e : EngineEvent) :
    u.placeEngine e = u.append (.engine e) := if_pos hroom

theorem placeEngine_owed {u : ReportUnit} (hfull : 24 ≤ u.store.length) (e : EngineEvent) :
    u.placeEngine e = { u with engineOwed := oweEvent u.engineOwed e } := if_neg (Nat.not_lt.2 hfull)

/-- An ENGINE event that joins no QUEUED REPORTS_DROPPED report is placed (R137). -/
theorem offerEngine_placed {u : ReportUnit} {e : EngineEvent}
    (h : (∀ k, e ≠ .reportsDropped k) ∨ u.store.any ReportEntry.queuedDropped = false) :
    u.offerEngine e = u.placeEngine e := by
  unfold offerEngine
  split
  · next k =>
    rw [h.resolve_left fun hk => hk k rfl]
    rfl
  · rfl

end ReportUnit

end Sys2Proof.Machine
end

section

open Sys2Proof Sys2Proof.Machine

/-- Settles O45: the first QUEUED OUTPUT report of the loop is replaced, and without one the store has room or the loop
counts a dropped output. -/
theorem outputReportsReplaceAppendOrDrop : Obligations.OutputReportsReplaceAppendOrDrop := by
  intro s r mine
  have hmine (e : ReportEntry) : e.queuedOutputOf r.loop = true ↔ mine e := queuedOutputOf_iff
  have hnone (l : List ReportEntry) (h : ∀ e ∈ l, ¬mine e) : ∀ e ∈ l, e.queuedOutputOf r.loop = false :=
    fun e he => Bool.eq_false_iff.2 (mt (hmine e).1 (h e he))
  refine ⟨fun pre e post hstore he hpre => ?_, fun h hroom => ?_, fun h hfull => ?_⟩
  · have hany : s.rep.store.any (ReportEntry.queuedOutputOf r.loop) = true :=
      List.any_eq_true.2 ⟨e, by simp [hstore], (hmine e).2 he⟩
    rw [State.offerOutput, ReportUnit.offerOutput, if_pos hany, hstore,
      updateFirst_split (hnone pre hpre) ((hmine e).2 he)]
  · rw [State.offerOutput, ReportUnit.offerOutput_appended (any_false_of_forall (hnone _ h)) hroom]
    rfl
  · rw [State.offerOutput, ReportUnit.offerOutput_refused (any_false_of_forall (hnone _ h)) hfull]
    rfl

end

section
/-! SUPPORT. ALARM and ENGINE offers (R136, R137). -/

namespace Sys2Proof.Machine

theorem sameKind_iff (a b : EngineEvent) : a.sameKind b = true ↔ a = b ∨ (∃ c d, a = .safeEntered c ∧ b = .safeEntered d)
    ∨ ∃ n k, a = .reportsDropped n ∧ b = .reportsDropped k := by
  cases a <;> cases b <;> simp [EngineEvent.sameKind]

theorem oweEvent_new {owed : List EngineEvent} {e : EngineEvent} (h : ∀ o ∈ owed, o.sameKind e = false) :
    oweEvent owed e = owed ++ [e] := by
  rw [oweEvent, List.find?_eq_none.2 fun o ho => by simp [h o ho]]

/-- An event of a kind already owed takes the owed one from its place (R137). -/
theorem oweEvent_known {pre post : List EngineEvent} {o e : EngineEvent} (ho : o.sameKind e = true)
    (h : ∀ y ∈ pre ++ post, y.sameKind e = false) : oweEvent (pre ++ o :: post) e = pre ++ post ++ [o.update e] := by
  rw [List.forall_mem_append] at h
  have hkeep (l : List EngineEvent) (hl : ∀ y ∈ l, y.sameKind e = false) :
      l.filter (fun x => !x.sameKind e) = l := List.filter_eq_self.2 fun y hy => by simp [hl y hy]
  have hfound : (pre ++ o :: post).find? (fun x => x.sameKind e) = some o :=
    List.find?_eq_some_iff_append.2 ⟨ho, pre, post, rfl, fun y hy => by simp [h.1 y hy]⟩
  rw [oweEvent, hfound]
  simp [ho, hkeep pre h.1, hkeep post h.2]

theorem update_eq (o e : EngineEvent) : o.update e = match o, e with
    | .reportsDropped n, .reportsDropped k => .reportsDropped (BitVec.ofNat 16 (min 65535 (n.toNat + k.toNat)))
    | _, new => new := by
  cases o <;> cases e <;> rfl

namespace ReportUnit

variable {u : ReportUnit} {pre post : List ReportEntry} {e : ReportEntry} (hstore : u.store = pre ++ e :: post)
  (hqueued : e.state = .queued)
include hstore hqueued

/-- An ALARM offer joins the first QUEUED ALARM report of its loop (R136). -/
theorem offerAlarm_merged {r old : AlarmReport} (hold : e.report = .alarm old) (hloop : old.loop = r.loop)
    (hpre : ∀ x ∈ pre, x.queuedAlarmOf r.loop = false) : u.offerAlarm r = ({ u with
      store := pre ++ { e with report := .alarm ⟨r.loop, r.latched, old.newly ||| r.newly⟩ } :: post }, true) := by
  have he : e.queuedAlarmOf r.loop = true := queuedAlarmOf_iff.2 ⟨hqueued, old, hold, hloop⟩
  have hany : u.store.any (ReportEntry.queuedAlarmOf r.loop) = true := List.any_eq_true.2 ⟨e, by simp [hstore], he⟩
  rw [offerAlarm, if_pos hany, hstore, updateFirst_split hpre he]
  simp only [mergeAlarm, hold]

/-- A REPORTS_DROPPED event is added to the first QUEUED report of its kind (R137). -/
theorem offerEngine_added {k n : BitVec 16} (hold : e.report = .engine (.reportsDropped n))
    (hpre : ∀ x ∈ pre, x.queuedDropped = false) : u.offerEngine (.reportsDropped k) = { u with
      store := pre ++ { e with report := .engine (.reportsDropped (satAdd n k)) } :: post } := by
  have he : e.queuedDropped = true := queuedDropped_iff.2 ⟨hqueued, n, hold⟩
  have hany : u.store.any ReportEntry.queuedDropped = true := List.any_eq_true.2 ⟨e, by simp [hstore], he⟩
  simp only [offerEngine, hany, if_true]
  rw [hstore, updateFirst_split hpre he]
  simp only [addDropped, hold]

end ReportUnit

end Sys2Proof.Machine

open Sys2Proof Sys2Proof.Machine

/-- Settles O46: an ALARM offer is merged, appended or refused, and an ENGINE event added, appended or owed. -/
theorem alarmAndEngineReportsAreAdmitted : Obligations.AlarmAndEngineReportsAreAdmitted := by
  refine ⟨sameKind_iff, ?_, ?_⟩
  · intro u r mine
    have hnone (l : List ReportEntry) (h : ∀ e ∈ l, ¬mine e) : ∀ e ∈ l, e.queuedAlarmOf r.loop = false :=
      fun e he => Bool.eq_false_iff.2 (mt queuedAlarmOf_iff.1 (h e he))
    refine ⟨fun pre e post old hstore he hold hloop hpre =>
      ReportUnit.offerAlarm_merged hstore he hold hloop (hnone pre hpre), fun h hroom => ?_, fun h hfull => ?_⟩
    · exact ReportUnit.offerAlarm_appended (any_false_of_forall (hnone _ h)) hroom
    · refine ReportUnit.offerAlarm_refused (not_or.2 ⟨Nat.not_lt.2 hfull, ?_⟩)
      rintro ⟨e, he, hq⟩
      exact h e he (queuedAlarmOf_iff.1 hq)
  · intro u e joins
    have hnone (l : List ReportEntry) (h : ∀ x ∈ l, ¬joins x) : ∀ x ∈ l, x.queuedDropped = false :=
      fun x hx => Bool.eq_false_iff.2 (mt queuedDropped_iff.1 (h x hx))
    constructor
    · rintro k n pre x post rfl hstore hx hold hpre
      exact ReportUnit.offerEngine_added hstore hx hold (hnone pre hpre)
    · intro h
      rw [ReportUnit.offerEngine_placed (h.imp_right fun hx => any_false_of_forall (hnone _ hx))]
      refine ⟨fun hroom => ReportUnit.placeEngine_appended hroom e, fun hfull howed => ?_,
        fun pre o post hfull howed ho hrest => ?_⟩
      · rw [ReportUnit.placeEngine_owed hfull, oweEvent_new howed]
      · rw [ReportUnit.placeEngine_owed hfull, howed, oweEvent_known ho hrest]
        exact congrArg (fun x => { u with engineOwed := pre ++ post ++ [x] }) (update_eq o e)

end

section
/-! SUPPORT. The frame of a report entry, and the entry offered to the transmitter (R141 to R143, R175). -/

namespace Sys2Proof.Machine

/-! ## The frame (R175, 10.2, 10.3) -/

theorem ReportEntry.holds_iff {e : ReportEntry} {a : Byte} : e.holds a ↔ e.state.rsn? = some a := by
  cases h : e.state <;> simp [ReportEntry.holds, EntryState.rsn?, h]

theorem frame_of_holds {e : ReportEntry} {rsn : Byte} (h : e.holds rsn) :
    e.frame = frameBytes e.report.kind rsn e.report.payload := by
  rw [ReportEntry.frame, ReportEntry.holds_iff.1 h]
  rfl

/-- Bit `n` of a flag byte where the flag is set (10.3). -/
def flagBit (b : Bool) (n : Nat) : Nat := if b then n else 0

theorem outputFlags_eq (safe stale sat secondary : Bool) :
    boolByte safe ||| (boolByte stale <<< 1) ||| (boolByte sat <<< 2) ||| (boolByte secondary <<< 3)
      = natByte (flagBit safe 1 + flagBit stale 2 + flagBit sat 4 + flagBit secondary 8) := by
  revert safe stale sat secondary
  decide

theorem output_payload (r : OutputReport) : (Report.output r).payload =
    [natByte r.loop, natByte (flagBit r.safe 1 + flagBit r.stale 2 + flagBit r.sat 4 + flagBit r.secondary.isSome 8)]
      ++ bytes16 r.primary ++ bytes32 r.releaseTick ++ match r.secondary with
        | some v => bytes16 v
        | none => [] := by
  rw [Report.payload, OutputReport.toBytes, outputFlags_eq]
  cases r.secondary <;> rfl

theorem flagsByte_eq (f : FlagSet) : flagsByte f = f.setWidth 8 := by
  revert f
  decide

/-! ## The taking (R141 to R143) -/

namespace ReportUnit

theorem holding_eq (u : ReportUnit) : u.holding = rsnHolders u.store := List.countP_congr fun e _ => by
  rw [ReportEntry.holdsRsn_eq]

theorem startTimer_eq (u : ReportUnit) : u.startTimer = { u with
    retryTimer := if u.retryTimer = none then some u.retryTimeout else u.retryTimer } := by
  unfold startTimer
  split
  · next h => rw [if_pos h]
  · next v h => rw [if_neg (by simp [h])]

variable {u : ReportUnit}

theorem take_resend {e : ReportEntry} {store : List ReportEntry} (hwindow : 0 < u.window)
    (h : takeFirst ReportEntry.isResend ReportEntry.sendAgain u.store = some (e, store)) :
    u.take = some (e, { u with store := store }.startTimer) := by
  rw [take, if_pos hwindow, h]

/-- Without a RESEND entry to take, the first QUEUED one is offered where the window has room (R141). -/
theorem take_no_resend (h : u.window = 0 ∨ ∀ x ∈ u.store, ∀ q, x.state ≠ .resend q) : u.take =
    if rsnHolders u.store < u.window then
      (takeFirst ReportEntry.isQueued (ReportEntry.sendFirst u.nextRsn) u.store).map fun x =>
        (x.1, { u with store := x.2, nextRsn := u.nextRsn + 1 }.startTimer)
    else none := by
  have hnone : (if 0 < u.window then takeFirst ReportEntry.isResend ReportEntry.sendAgain u.store else none) = none := by
    rcases h with h | h
    · rw [if_neg (by omega)]
    · rw [takeFirst_none fun x hx => isResend_eq_false (h x hx), ite_self]
  rw [take, hnone, holding_eq]
  cases takeFirst ReportEntry.isQueued (ReportEntry.sendFirst u.nextRsn) u.store <;> rfl

end ReportUnit

end Sys2Proof.Machine

open Sys2Proof Sys2Proof.Machine

/-- Settles O26: the layouts report kind by report kind, and the taking where a RESEND entry, a QUEUED entry or none is
eligible. -/
theorem firstEligibleReportIsTaken : Obligations.FirstEligibleReportIsTaken := by
  constructor
  · intro e rsn h
    rw [frame_of_holds h]
    cases e.report with
    | output r => exact congrArg (frameBytes 0xC0 rsn) (output_payload r)
    | alarm r => rw [Report.payload, flagsByte_eq, flagsByte_eq]; rfl
    | engine v =>
      cases v with
      | safeEntered c => cases c <;> rfl
      | runEntered | linkWarn | linkOk | muteLeft | linkReset | reportsDropped n => rfl
    | boot cause flag rev => cases cause <;> rfl
  · intro u pre post e held timer
    refine ⟨fun r hstore he hpre hwindow => ?_, fun hstore he hpre hresend hroom => ?_, fun hresend hqueued => ?_⟩
    · have hfirst := takeFirst_split (f := ReportEntry.sendAgain) (post := post)
        (fun x hx => isResend_eq_false (hpre x hx)) (isResend_iff.2 ⟨r, he⟩)
      rw [ReportUnit.take_resend hwindow (by rw [hstore, hfirst]), ReportUnit.startTimer_eq, ReportEntry.sendAgain, he]
    · have hfirst := takeFirst_split (f := ReportEntry.sendFirst u.nextRsn) (post := post)
        (fun x hx => isQueued_eq_false (hpre x hx)) (isQueued_iff.2 he)
      rw [ReportUnit.take_no_resend (.inr hresend), if_pos hroom, hstore, hfirst, Option.map_some,
        ReportUnit.startTimer_eq]
      rfl
    · rw [ReportUnit.take_no_resend hresend]
      rcases hqueued with hfull | hqueued
      · rw [if_neg (Nat.not_lt.2 hfull)]
      · rw [takeFirst_none fun x hx => isQueued_eq_false (hqueued x hx), Option.map_none, ite_self]

end

section
/-! SUPPORT. The OUTPUT report of a completion: what the report mode decides, and what follows (R133, R134). -/

namespace Sys2Proof.Machine

section

variable {s : State} {i : LoopId} {d : Definition} {counter : BitVec 8}

/-- A completion that produces a report: the counter and the last-reported value change, and the report is offered. -/
theorem completionOutput_produced (h : reportDecision d (s.loop i) (s.loop i).primary = (true, counter)) (x : Instance)
    (k : Marks) : s.completionOutput i d x k =
      (s.setLoop i { s.loop i with divideCounter := counter, lastReported := some (s.loop i).presented }).offerOutput
        { loop := i, primary := (s.loop i).presented
          secondary := if d.includeSecondary then some (s.loop i).secondary else none
          releaseTick := x.releaseTick, safe := false, stale := k.stale, sat := k.sat } := by
  simp only [State.completionOutput, h, if_true, State.produceOutput, State.modLoop, loop_setLoop_self, setLoop_setLoop]

theorem completionOutput_unreported (h : reportDecision d (s.loop i) (s.loop i).primary = (false, counter))
    (x : Instance) (k : Marks) :
    s.completionOutput i d x k = s.setLoop i { s.loop i with divideCounter := counter } := by
  simp only [State.completionOutput, h, Bool.false_eq_true, if_false, State.modLoop]

end

/-! ## The decision, mode by mode (R133) -/

section

variable {d : Definition} (l : LoopEntry) (v : Count)

theorem reportDecision_every (h : d.reportMode = .every) : reportDecision d l v = (true, l.divideCounter) := by
  simp only [reportDecision, h]

theorem reportDecision_silent (h : d.reportMode = .silent) : reportDecision d l v = (false, l.divideCounter) := by
  simp only [reportDecision, h]

theorem reportDecision_divide (h : d.reportMode = .divide) : reportDecision d l v =
    if l.divideCounter.toNat + 1 = d.reportParam.toNat then (true, 0) else (false, l.divideCounter + 1) := by
  simp only [reportDecision, h]

theorem reportDecision_change_first (h : d.reportMode = .change) (hnone : l.lastReported = none) :
    reportDecision d l v = (true, l.divideCounter) := by
  simp only [reportDecision, h, hnone]

theorem reportDecision_change (h : d.reportMode = .change) {last : Count} (hlast : l.lastReported = some last) :
    reportDecision d l v = (decide (d.reportParam.toNat ≤ (v.toInt - last.toInt).natAbs), l.divideCounter) := by
  simp only [reportDecision, h, hlast, ge_iff_le]

end

end Sys2Proof.Machine

open Sys2Proof Sys2Proof.Machine

/-- Settles O48: each report mode decides whether a report is produced, and the rest of the completion follows. -/
theorem completionReportsFollowTheReportMode : Obligations.CompletionReportsFollowTheReportMode := by
  intro s i d x k l o told reported counted _
  have hproduced (c : BitVec 8) (h : reportDecision d l l.primary = (true, c)) :
      s.completionOutput i d x k = reported c := completionOutput_produced h x k
  have hsame (h : reportDecision d l l.primary = (false, l.divideCounter)) : s.completionOutput i d x k = s :=
    (completionOutput_unreported h x k).trans (setLoop_self s i)
  refine ⟨fun hmode => hproduced _ (reportDecision_every l _ hmode),
    fun hmode => hsame (reportDecision_silent l _ hmode), fun hmode => ⟨fun hlast => ?_, fun hmore => ?_⟩,
    fun hmode => ⟨fun hnone => hproduced _ (reportDecision_change_first l _ hmode hnone), fun v hv =>
      ⟨fun hmoved => hproduced _ ?_, fun hnear => hsame ?_⟩⟩⟩
  · exact hproduced 0 (by rw [reportDecision_divide l _ hmode, if_pos hlast])
  · exact completionOutput_unreported (by rw [reportDecision_divide l _ hmode, if_neg hmore]) x k
  · rw [reportDecision_change l _ hmode hv, decide_eq_true hmoved]
  · rw [reportDecision_change l _ hmode hv, decide_eq_false (Nat.not_le.2 hnear)]

end

section
/-! SUPPORT. The owed reports admitted: the ENGINE events up to the store's size, then the loops in their order (R139). -/

namespace Sys2Proof.Machine

/-! ## The ENGINE events -/

/-- The owed ENGINE events that find room are appended in their order, and the rest stay owed (R139). -/
theorem ReportUnit.admitEngineOwed_eq (u : ReportUnit) (owed : List EngineEvent) : u.admitEngineOwed owed = { u with
    store := u.store ++ (owed.take (24 - u.store.length)).map fun e => queuedEntry (.engine e)
    engineOwed := owed.drop (24 - u.store.length) } := by
  induction owed generalizing u with
  | nil => simp [admitEngineOwed]
  | cons e rest ih =>
    rw [admitEngineOwed]
    split
    · next hroom =>
      obtain ⟨k, hk⟩ : ∃ k, 24 - u.store.length = k + 1 := ⟨_, (Nat.succ_pred_eq_of_pos (Nat.sub_pos_of_lt hroom)).symm⟩
      have hk' : 24 - (u.append (.engine e)).store.length = k := by
        simp only [append, List.length_append, List.length_cons, List.length_nil]
        omega
      rw [ih, hk, hk']
      simp [append]
    · next hfull =>
      have hno : 24 - u.store.length = 0 := Nat.sub_eq_zero_of_le (Nat.not_lt.1 hfull)
      simp [hno]

/-- The state with the owed ENGINE events admitted (R139). -/
def State.engineAdmitted (s : State) : State := { s with rep := s.rep.admitEngineOwed s.rep.engineOwed }

theorem admitOwed_eq (s : State) : s.admitOwed = s.engineAdmitted.admitAlarmOwed := rfl

/-! ## The loops -/

/-- The entry of the owed offer of a loop (R139). -/
def State.owedEntry (s : State) (i : LoopId) : ReportEntry :=
  queuedEntry (.alarm ⟨i, (s.loop i).alarms.latched, (s.loop i).alarms.owed⟩)

/-- The loops of `l` whose owed offers find room in the store, in their order (R139). -/
def State.admitted (s : State) (l : List LoopId) : List LoopId :=
  (l.filter fun i => (s.loop i).alarms.owed != 0).take (22 - s.rep.store.length)

/-- No alarm-owed loop of `l` has a QUEUED ALARM report. -/
def State.OwedUnqueued (s : State) (l : List LoopId) : Prop :=
  ∀ i ∈ l, (s.loop i).alarms.owed ≠ 0 → s.rep.store.any (ReportEntry.queuedAlarmOf i) = false

theorem owedUnqueued_engineAdmitted {s : State} {l : List LoopId} (h : s.OwedUnqueued l) :
    s.engineAdmitted.OwedUnqueued l := fun i hi howed => Bool.eq_false_iff.2 fun hq =>
  Bool.eq_false_iff.1 (h i hi howed) ((s.rep.storeKeeps_admitEngineOwed s.rep.engineOwed).queued i hq)

/-- The turn of an owed loop that finds room: its offer is appended and its owed set emptied (R139). -/
def State.admitOne (s : State) (i : LoopId) : State :=
  { s.setLoop i ((s.loop i).owing 0) with rep := { s.rep with store := s.rep.store ++ [s.owedEntry i] } }

/-- The state with the owed offers of `l` admitted and the owed sets of these loops emptied (R139). -/
def State.admitAll (s : State) (l : List LoopId) : State :=
  { s with
    loops := Vector.ofFn fun i : LoopId => if i ∈ l then (s.loop i).owing 0 else s.loop i
    rep := { s.rep with store := s.rep.store ++ l.map s.owedEntry } }

theorem admitAll_nil (s : State) : s.admitAll [] = s := by
  have hloops : Vector.ofFn (fun i : LoopId => s.loop i) = s.loops := loops_ext fun i => by simp [State.loop]
  simp [State.admitAll, hloops]

theorem admitOne_loop_ne (s : State) {i j : LoopId} (h : j ≠ i) : (s.admitOne i).loop j = s.loop j :=
  loop_setLoop_ne s _ h

theorem admitAll_cons (s : State) {i : LoopId} {l : List LoopId} (hi : i ∉ l) :
    (s.admitOne i).admitAll l = s.admitAll (i :: l) := by
  have hne (j : LoopId) (hj : j ∈ l) : j ≠ i := fun h => hi (h ▸ hj)
  have hentries : l.map (s.admitOne i).owedEntry = l.map s.owedEntry := List.map_congr_left fun j hj => by
    rw [State.owedEntry, admitOne_loop_ne s (hne j hj)]
    rfl
  have hloops : (fun j : LoopId => if j ∈ l then ((s.admitOne i).loop j).owing 0 else (s.admitOne i).loop j)
      = fun j => if j ∈ i :: l then (s.loop j).owing 0 else s.loop j := by
    funext j
    by_cases hj : j = i
    · subst hj
      rw [if_neg hi, if_pos List.mem_cons_self]
      exact loop_setLoop_self s j _
    · simp [admitOne_loop_ne s hj, hj]
  simp only [State.admitAll, hentries, hloops]
  simp [State.admitOne, State.setLoop]

theorem admitTurn_none {s : State} {i : LoopId} (h : (s.loop i).alarms.owed = 0 ∨ 22 ≤ s.rep.store.length) :
    admitTurn i s = s :=
  if_neg fun ⟨howed, hroom⟩ => h.elim howed (Nat.not_le.2 hroom)

theorem admitTurn_owed {s : State} {i : LoopId} (howed : (s.loop i).alarms.owed ≠ 0) (hroom : s.rep.store.length < 22)
    (hnone : s.rep.store.any (ReportEntry.queuedAlarmOf i) = false) : admitTurn i s = s.admitOne i := by
  rw [admitTurn, if_pos ⟨howed, hroom⟩, State.offerAlarm_taken (.inl hroom),
    ReportUnit.offerAlarm_appended hnone hroom]
  rfl

theorem admitted_after (s : State) {i : LoopId} {l : List LoopId} (hi : i ∉ l) : (s.admitOne i).admitted l =
    (l.filter fun j => (s.loop j).alarms.owed != 0).take (22 - s.rep.store.length - 1) := by
  have hfilter : (l.filter fun j => ((s.admitOne i).loop j).alarms.owed != 0)
      = l.filter fun j => (s.loop j).alarms.owed != 0 := List.filter_congr fun j hj => by
    have hji : j ≠ i := fun h => hi (h ▸ hj)
    rw [admitOne_loop_ne s hji]
  rw [State.admitted, hfilter]
  simp [State.admitOne, Nat.sub_add_eq]

theorem owedUnqueued_after {s : State} {i : LoopId} {l : List LoopId} (hi : i ∉ l) (h : s.OwedUnqueued l) :
    (s.admitOne i).OwedUnqueued l := by
  intro j hj howed
  have hji : j ≠ i := fun e => hi (e ▸ hj)
  rw [admitOne_loop_ne s hji] at howed
  have hother : (s.owedEntry i).queuedAlarmOf j = false := by
    simp [State.owedEntry, queuedEntry, ReportEntry.queuedAlarmOf, hji.symm]
  simp [State.admitOne, h j hj howed, hother]

/-- Loop after loop, the owed offers are admitted while the store has room (R139). -/
theorem foldl_admitTurn_eq {l : List LoopId} (hl : l.Nodup) {s : State} (h : s.OwedUnqueued l) :
    l.foldl (fun t i => admitTurn i t) s = s.admitAll (s.admitted l) := by
  induction l generalizing s with
  | nil => simp [State.admitted, admitAll_nil]
  | cons i rest ih =>
    rw [List.nodup_cons] at hl
    obtain ⟨hi, hrest⟩ := hl
    have hrest' : s.OwedUnqueued rest := fun j hj => h j (List.mem_cons_of_mem i hj)
    rw [List.foldl_cons]
    by_cases howed : (s.loop i).alarms.owed = 0
    · rw [admitTurn_none (.inl howed), ih hrest hrest']
      simp [State.admitted, howed]
    · by_cases hroom : s.rep.store.length < 22
      · obtain ⟨k, hk⟩ : ∃ k, 22 - s.rep.store.length = k + 1 :=
          ⟨_, (Nat.succ_pred_eq_of_pos (Nat.sub_pos_of_lt hroom)).symm⟩
        have hadmitted : s.admitted (i :: rest) = i :: (s.admitOne i).admitted rest := by
          rw [admitted_after s hi, State.admitted, hk, List.filter_cons_of_pos (by simpa using howed)]
          rfl
        have hnot : i ∉ (s.admitOne i).admitted rest := fun hmem => hi (List.mem_filter.1 (List.mem_of_mem_take hmem)).1
        rw [admitTurn_owed howed hroom (h i List.mem_cons_self howed), ih hrest (owedUnqueued_after hi hrest'),
          hadmitted, admitAll_cons s hnot]
      · have hnone (l : List LoopId) : s.admitted l = [] := by
          rw [State.admitted, Nat.sub_eq_zero_of_le (Nat.not_lt.1 hroom), List.take_zero]
        rw [admitTurn_none (.inr (Nat.not_lt.1 hroom)), ih hrest hrest', hnone, hnone]

theorem admitAlarmOwed_eq_admitAll {s : State} (h : s.OwedUnqueued allLoops) :
    s.admitAlarmOwed = s.admitAll (s.admitted allLoops) := by
  rw [admitAlarmOwed_eq, State.eachLoop, foldl_admitTurn_eq allLoops_nodup h]

end Sys2Proof.Machine

open Sys2Proof Sys2Proof.Machine

/-- Settles O47: the ENGINE events up to the size of the store, and behind them the loops with room. -/
theorem owedReportsAreAdmittedInOrder : Obligations.OwedReportsAreAdmittedInOrder := by
  intro s h entry n withEngine owing admitted emptied
  have htake : s.rep.engineOwed.take n = s.rep.engineOwed.take (24 - s.rep.store.length) := by
    rw [List.take_eq_take_iff]
    omega
  have hdrop : s.rep.engineOwed.drop n = s.rep.engineOwed.drop (24 - s.rep.store.length) := by
    rw [List.drop_eq_drop_iff]
    omega
  have hengine : s.engineAdmitted =
      { s with rep := { s.rep with store := withEngine, engineOwed := s.rep.engineOwed.drop n } } := by
    simp only [State.engineAdmitted, ReportUnit.admitEngineOwed_eq, withEngine, htake, hdrop]
    rfl
  have hunqueued : s.engineAdmitted.OwedUnqueued allLoops := owedUnqueued_engineAdmitted fun i _ howed =>
    any_false_of_forall (h i howed)
  rw [admitOwed_eq, admitAlarmOwed_eq_admitAll hunqueued, hengine, allLoops_eq_finRange]
  rfl

end

section
/-! SUPPORT. What the invariant of the report store sees of its entries, and the changes of the store that keep it in
shape (R130, R132, R142 to R144). -/

namespace Sys2Proof.Machine

/-! ## Entries as the invariant sees them -/

/-- What the invariant sees of an entry: the RSN it holds, its retry count, whether it is of the loops' traffic, and of
which loop it is the QUEUED OUTPUT or the QUEUED ALARM report. -/
structure EntryView where
  rsn : Option Byte
  retries : Nat
  ofLoops : Bool
  output : LoopId → Bool
  alarm : LoopId → Bool

def ReportEntry.view (e : ReportEntry) : EntryView where
  rsn := e.state.rsn?
  retries := e.retryCount
  ofLoops := e.ofLoops
  output i := e.queuedOutputOf i
  alarm i := e.queuedAlarmOf i

def ReportUnit.views (u : ReportUnit) : List EntryView := u.store.map ReportEntry.view

theorem view_goBack (e : ReportEntry) : e.goBack.view = e.view := by
  cases h : e.state <;>
    simp [ReportEntry.goBack, ReportEntry.view, ReportEntry.ofLoops, ReportEntry.queuedOutputOf,
      ReportEntry.queuedAlarmOf, EntryState.rsn?, h]

theorem view_sendAgain (e : ReportEntry) : e.sendAgain.view = e.view := by
  cases h : e.state <;>
    simp [ReportEntry.sendAgain, ReportEntry.view, ReportEntry.ofLoops, ReportEntry.queuedOutputOf,
      ReportEntry.queuedAlarmOf, EntryState.rsn?, h]

/-- An OUTPUT report in the place of the QUEUED one of its loop (R135). -/
theorem view_replaceOutput {r : OutputReport} {e : ReportEntry} (h : e.queuedOutputOf r.loop = true) :
    ReportEntry.view { e with report := .output r } = e.view := by
  obtain ⟨hs, o, hr, ho⟩ := queuedOutputOf_iff.1 h
  simp [ReportEntry.view, ReportEntry.ofLoops, ReportEntry.queuedOutputOf, ReportEntry.queuedAlarmOf, hs, hr, ho]

theorem view_mergeAlarm {r : AlarmReport} {e : ReportEntry} (h : e.queuedAlarmOf r.loop = true) :
    (mergeAlarm r e).view = e.view := by
  obtain ⟨hs, o, hr, ho⟩ := queuedAlarmOf_iff.1 h
  simp [mergeAlarm, ReportEntry.view, ReportEntry.ofLoops, ReportEntry.queuedOutputOf, ReportEntry.queuedAlarmOf, hs,
    hr, ho]

theorem view_addDropped (k : BitVec 16) (e : ReportEntry) : (addDropped k e).view = e.view := by
  unfold addDropped
  split
  · next n hr =>
    simp [ReportEntry.view, ReportEntry.ofLoops, ReportEntry.queuedOutputOf, ReportEntry.queuedAlarmOf, hr]
  · rfl

/-! ## The RSNs of a store (R130, R142) -/

/-- The RSNs of `held` holders in their order, ending just below the next one. -/
def heldRsns (next : Byte) : Nat → List (Option Byte)
  | 0 => []
  | held + 1 => some (next - BitVec.ofNat 8 (held + 1)) :: heldRsns next held

theorem heldRsns_succ (next : Byte) (held : Nat) : heldRsns (next + 1) (held + 1) = heldRsns next held ++ [some next] := by
  induction held with
  | zero => simp [heldRsns]
  | succ k ih =>
    have hhead : next + 1 - BitVec.ofNat 8 (k + 1 + 1) = next - BitVec.ofNat 8 (k + 1) := by
      rw [BitVec.ofNat_add (k + 1)]
      exact add_sub_add_right_eq_sub next _ _
    rw [heldRsns, ih, hhead]
    rfl

theorem heldRsns_get (next : Byte) (held k : Nat) : (heldRsns next held)[k]? =
    if k < held then some (some (next - BitVec.ofNat 8 (held - k))) else none := by
  induction held generalizing k with
  | zero => simp [heldRsns]
  | succ n ih =>
    cases k with
    | zero => simp [heldRsns]
    | succ k => simp [heldRsns, ih]

theorem heldRsns_length (next : Byte) (held : Nat) : (heldRsns next held).length = held := by
  induction held with
  | zero => rfl
  | succ k ih => rw [heldRsns, List.length_cons, ih]

theorem countP_heldRsns (next : Byte) (held : Nat) : (heldRsns next held).countP Option.isSome = held := by
  induction held with
  | zero => rfl
  | succ k ih => rw [heldRsns, List.countP_cons_of_pos rfl, ih]

/-- The holders end where the first entry without an RSN stands. -/
theorem heldRsns_split {next : Byte} {held q : Nat} {pre post : List (Option Byte)} (hpre : ∀ x ∈ pre, x ≠ none)
    (h : pre ++ none :: post = heldRsns next held ++ List.replicate q none) :
    pre = heldRsns next held ∧ ∃ q', q = q' + 1 ∧ post = List.replicate q' none := by
  induction held generalizing pre with
  | zero =>
    rw [heldRsns, List.nil_append, List.eq_replicate_iff] at h
    obtain ⟨hlength, hnone⟩ := h
    have hnil : pre = [] := List.eq_nil_iff_forall_not_mem.2 fun x hx => hpre x hx (hnone x (by simp [hx]))
    subst hnil
    exact ⟨rfl, post.length, hlength.symm, List.eq_replicate_iff.2 ⟨rfl, fun x hx => hnone x (by simp [hx])⟩⟩
  | succ k ih =>
    cases pre with
    | nil => cases h
    | cons x pre =>
      obtain ⟨hx, hrest⟩ := List.cons.inj h
      obtain ⟨hheld, hpost⟩ := ih (fun y hy => hpre y (List.mem_cons_of_mem x hy)) hrest
      exact ⟨by rw [hx, hheld]; rfl, hpost⟩

/-! ## The shape of a store -/

/-- A store as the invariant has it: its sizes, at most one QUEUED report of a kind per loop, `held` entries at its head
with the RSNs just below `next`, and the bounds of the retry counts (R130, R132, R142, R144). -/
structure StoreShape (next : Byte) (held : Nat) (v : List EntryView) : Prop where
  size : v.length ≤ 24
  ofLoops : v.countP (fun w => w.ofLoops) ≤ 22
  oneOutput : ∀ i, v.countP (fun w => w.output i) ≤ 1
  oneAlarm : ∀ i, v.countP (fun w => w.alarm i) ≤ 1
  numbered : ∃ q, v.map (fun w => w.rsn) = heldRsns next held ++ List.replicate q none
  inFlight : held ≤ 16
  firstRetry : ∀ w, v.head? = some w → w.retries ≤ 7
  laterRetries : ∀ w ∈ v.tail, w.retries = 0

namespace StoreShape

variable {next : Byte} {held : Nat} {v pre post : List EntryView} {w w' : EntryView}

theorem held_eq (h : StoreShape next held v) : v.countP (fun w => w.rsn.isSome) = held := by
  obtain ⟨q, hq⟩ := h.numbered
  have hcount : (v.map fun w => w.rsn).countP Option.isSome = held := by
    rw [hq, List.countP_append, countP_heldRsns, List.countP_replicate]
    simp
  rwa [List.countP_map] at hcount

theorem nil (next : Byte) : StoreShape next 0 [] where
  size := Nat.zero_le _
  ofLoops := Nat.zero_le _
  oneOutput _ := Nat.zero_le _
  oneAlarm _ := Nat.zero_le _
  numbered := ⟨0, rfl⟩
  inFlight := Nat.zero_le _
  firstRetry := nofun
  laterRetries := nofun

/-- A QUEUED entry appended where there is room for it, and where no other QUEUED report of its kind and loop stands
(R132, R135, R136). -/
theorem append (h : StoreShape next held v) (hrsn : w.rsn = none) (hretries : w.retries = 0) (hroom : v.length < 24)
    (hloops : w.ofLoops = true → v.length < 22)
    (houtput : ∀ i, w.output i = true → v.countP (fun w => w.output i) = 0)
    (halarm : ∀ i, w.alarm i = true → v.countP (fun w => w.alarm i) = 0) : StoreShape next held (v ++ [w]) where
  size := by simpa using hroom
  ofLoops := by
    rw [List.countP_append, List.countP_singleton]
    split
    · next hw => exact Nat.succ_le_of_lt ((List.countP_le_length).trans_lt (hloops hw))
    · exact h.ofLoops
  oneOutput i := by
    rw [List.countP_append, List.countP_singleton]
    split
    · next hw => rw [houtput i hw]
    · exact h.oneOutput i
  oneAlarm i := by
    rw [List.countP_append, List.countP_singleton]
    split
    · next hw => rw [halarm i hw]
    · exact h.oneAlarm i
  numbered := by
    obtain ⟨q, hq⟩ := h.numbered
    refine ⟨q + 1, ?_⟩
    rw [List.map_append, hq, List.append_assoc, List.map_singleton, hrsn, List.replicate_succ']
  inFlight := h.inFlight
  firstRetry x hx := by
    cases v with
    | nil =>
      cases hx
      rw [hretries]
      exact Nat.zero_le 7
    | cons y v => exact h.firstRetry x hx
  laterRetries x hx := by
    cases v with
    | nil => cases hx
    | cons y v =>
      rcases List.mem_append.1 hx with hx | hx
      · exact h.laterRetries x hx
      · rwa [List.mem_singleton.1 hx]

/-- The first entry removed (R145, R146). -/
theorem tail (h : StoreShape next held (w :: v)) : StoreShape next (held - 1) v where
  size := (Nat.le_succ _).trans h.size
  ofLoops := ((List.sublist_cons_self w v).countP_le).trans h.ofLoops
  oneOutput i := ((List.sublist_cons_self w v).countP_le).trans (h.oneOutput i)
  oneAlarm i := ((List.sublist_cons_self w v).countP_le).trans (h.oneAlarm i)
  numbered := by
    obtain ⟨q, hq⟩ := h.numbered
    cases held with
    | zero =>
      cases q with
      | zero => cases hq
      | succ q => exact ⟨q, (List.cons.inj hq).2⟩
    | succ k => exact ⟨q, (List.cons.inj hq).2⟩
  inFlight := (Nat.sub_le _ _).trans h.inFlight
  firstRetry x hx := by
    rw [h.laterRetries x (List.mem_of_mem_head? hx)]
    exact Nat.zero_le 7
  laterRetries x hx := h.laterRetries x (List.mem_of_mem_tail hx)

/-- The retry count of the first entry changed (R144). -/
theorem retried (h : StoreShape next held (w :: v)) {n : Nat} (hn : n ≤ 7) :
    StoreShape next held ({ w with retries := n } :: v) where
  size := h.size
  ofLoops := by simpa only [List.countP_cons] using h.ofLoops
  oneOutput i := by simpa only [List.countP_cons] using h.oneOutput i
  oneAlarm i := by simpa only [List.countP_cons] using h.oneAlarm i
  numbered := h.numbered
  inFlight := h.inFlight
  firstRetry x hx := by
    cases hx
    exact hn
  laterRetries := h.laterRetries

/-- The first QUEUED entry sent with the next RSN (R142). -/
theorem sent (h : StoreShape next held (pre ++ w :: post)) (hpre : ∀ x ∈ pre, x.rsn ≠ none) (hw : w.rsn = none)
    (hroom : held < 16) (hrsn : w'.rsn = some next) (hretries : w'.retries = 0) (hloops : w'.ofLoops = w.ofLoops)
    (houtput : ∀ i, w'.output i = false) (halarm : ∀ i, w'.alarm i = false) :
    StoreShape (next + 1) (held + 1) (pre ++ w' :: post) where
  size := by simpa using h.size
  ofLoops := by simpa only [List.countP_append, List.countP_cons, hloops] using h.ofLoops
  oneOutput i := by
    refine le_trans ?_ (h.oneOutput i)
    simp [List.countP_append, List.countP_cons, houtput i]
  oneAlarm i := by
    refine le_trans ?_ (h.oneAlarm i)
    simp [List.countP_append, List.countP_cons, halarm i]
  numbered := by
    obtain ⟨q, hq⟩ := h.numbered
    rw [List.map_append, List.map_cons, hw] at hq
    obtain ⟨hheld, q', rfl, hpost⟩ := heldRsns_split (by simpa using hpre) hq
    exact ⟨q', by rw [List.map_append, List.map_cons, hheld, hrsn, hpost, heldRsns_succ, List.append_assoc]; rfl⟩
  inFlight := hroom
  firstRetry x hx := by
    cases pre with
    | nil =>
      cases hx
      rw [hretries]
      exact Nat.zero_le 7
    | cons y pre => exact h.firstRetry x hx
  laterRetries x hx := by
    cases pre with
    | nil => exact h.laterRetries x hx
    | cons y pre =>
      rcases List.mem_append.1 hx with hx | hx
      · exact h.laterRetries x (List.mem_append_left _ hx)
      · rcases List.mem_cons.1 hx with rfl | hx
        · exact hretries
        · exact h.laterRetries x (List.mem_append_right _ (List.mem_cons_of_mem w hx))

end StoreShape

end Sys2Proof.Machine
end

section
/-! SUPPORT. The report unit as the invariant has it, and the moves that offers and settings make of it (R130, R135 to
R137, R143, R148). -/

namespace Sys2Proof.Machine

/-! ## The parts of the invariant -/

/-- What holds of the report unit even while entries have just left the store: the shape of the store, the ranges of the
settings, and one owed event of a kind (R130, R137). -/
structure ReportUnit.Shaped (u : ReportUnit) : Prop where
  store : StoreShape u.nextRsn u.holding u.views
  settings : u.window ≤ 16 ∧ u.defaultWindow ≤ 16 ∧ u.retryLimit ≤ 7
  owedKinds : u.engineOwed.Pairwise fun a b => a.sameKind b = false

/-- The retry timer runs only for entries that hold an RSN, and not in MUTE (R143, R148). -/
def ReportUnit.TimerFits (u : ReportUnit) (l : LinkState) : Prop :=
  u.retryTimer.isSome = true → 0 < u.holding ∧ l ≠ .mute

/-- ENGINE events are owed only for want of room (R137, R139). -/
def ReportUnit.OwedForRoom (u : ReportUnit) : Prop := u.engineOwed ≠ [] → 24 ≤ u.store.length

namespace ReportUnit

variable {u u' : ReportUnit}

theorem holding_eq_countP (u : ReportUnit) : u.holding = u.views.countP fun w => w.rsn.isSome := by
  rw [views, List.countP_map]
  rfl

theorem any_eq_false_iff_countP {p : ReportEntry → Bool} {l : List ReportEntry} :
    l.any p = false ↔ l.countP p = 0 := by
  rw [List.any_eq_false, List.countP_eq_zero]

theorem shaped_of {held : Nat} (h : StoreShape u.nextRsn held u.views)
    (hset : u.window ≤ 16 ∧ u.defaultWindow ≤ 16 ∧ u.retryLimit ≤ 7)
    (howed : u.engineOwed.Pairwise fun a b => a.sameKind b = false) : u.Shaped :=
  ⟨by rwa [holding_eq_countP, h.held_eq], hset, howed⟩

/-- The RSNs as the invariant states them: entry by entry. -/
theorem numbered_iff (u : ReportUnit) : (∀ k e, u.store[k]? = some e → e.state.rsn? =
      if k < u.holding then some (u.nextRsn - BitVec.ofNat 8 (u.holding - k)) else none) ↔
    ∃ q, u.views.map (fun w => w.rsn) = heldRsns u.nextRsn u.holding ++ List.replicate q none := by
  have hrsns : u.views.map (fun w => w.rsn) = u.store.map fun e => e.state.rsn? := List.map_map
  have hle : u.holding ≤ u.store.length := List.countP_le_length
  rw [hrsns]
  constructor
  · refine fun h => ⟨u.store.length - u.holding, List.ext_getElem? fun k => ?_⟩
    rw [List.getElem?_map, List.getElem?_append, heldRsns_length, heldRsns_get, List.getElem?_replicate]
    cases hk : u.store[k]? with
    | none =>
      have hlen := List.getElem?_eq_none_iff.1 hk
      rw [if_neg (by omega), if_neg (by omega)]
      rfl
    | some e =>
      have hlen := (List.getElem?_eq_some_iff.1 hk).1
      rw [Option.map_some, h k e hk]
      split
      · rfl
      · rw [if_pos (by omega)]
  · rintro ⟨q, hq⟩ k e he
    have hk := congrArg (·[k]?) hq
    simp only [List.getElem?_map, he, Option.map_some, List.getElem?_append, heldRsns_length, heldRsns_get,
      List.getElem?_replicate] at hk
    split at hk
    · next hlt => rw [if_pos hlt, Option.some.inj hk]
    · next hge =>
      rw [if_neg hge]
      split at hk
      · exact Option.some.inj hk
      · cases hk

theorem shaped_iff (u : ReportUnit) : u.Shaped ↔ u.store.length ≤ 24 ∧ u.store.countP ReportEntry.ofLoops ≤ 22
    ∧ (∀ i, u.store.countP (ReportEntry.queuedOutputOf i) ≤ 1) ∧ (∀ i, u.store.countP (ReportEntry.queuedAlarmOf i) ≤ 1)
    ∧ (∀ k e, u.store[k]? = some e → e.state.rsn? =
        if k < u.holding then some (u.nextRsn - BitVec.ofNat 8 (u.holding - k)) else none)
    ∧ u.holding ≤ 16 ∧ (∀ e, u.store.head? = some e → e.retryCount ≤ 7) ∧ (∀ e ∈ u.store.tail, e.retryCount = 0)
    ∧ (u.window ≤ 16 ∧ u.defaultWindow ≤ 16 ∧ u.retryLimit ≤ 7)
    ∧ u.engineOwed.Pairwise fun a b => a.sameKind b = false := by
  have hhead : (∀ w, u.views.head? = some w → w.retries ≤ 7) ↔ ∀ e, u.store.head? = some e → e.retryCount ≤ 7 := by
    simp [views, ReportEntry.view]
  have htail : (∀ w ∈ u.views.tail, w.retries = 0) ↔ ∀ e ∈ u.store.tail, e.retryCount = 0 := by
    simp [views, ReportEntry.view, ← List.map_tail]
  have hcount (p : EntryView → Bool) : u.views.countP p = u.store.countP fun e => p e.view := List.countP_map
  have hlength : u.views.length = u.store.length := List.length_map _
  rw [u.numbered_iff, ← hhead, ← htail, ← hlength]
  constructor
  · rintro ⟨⟨hsize, hloops, houtput, halarm, hnum, hflight, hfirst, hlater⟩, hset, howed⟩
    simp only [hcount] at hloops houtput halarm
    exact ⟨hsize, hloops, houtput, halarm, hnum, hflight, hfirst, hlater, hset, howed⟩
  · rintro ⟨hsize, hloops, houtput, halarm, hnum, hflight, hfirst, hlater, hset, howed⟩
    refine ⟨⟨hsize, ?_, ?_, ?_, hnum, hflight, hfirst, hlater⟩, hset, howed⟩ <;> simpa only [hcount]

end ReportUnit

theorem storeInv_iff {s : State} : StoreInv s ↔ s.rep.Shaped ∧ s.rep.TimerFits s.link.state ∧ s.rep.OwedForRoom
    ∧ (s.power = .inReset → s.rep.store = []) := by
  rw [ReportUnit.shaped_iff]
  constructor
  · rintro ⟨hsize, hloops, houtput, halarm, hnum, hflight, hset, hfirst, hlater, htimer, howed, hroom, hreset⟩
    exact ⟨⟨hsize, hloops, houtput, halarm, hnum, hflight, hfirst, hlater, hset, howed⟩, htimer, hroom, hreset⟩
  · rintro ⟨⟨hsize, hloops, houtput, halarm, hnum, hflight, hfirst, hlater, hset, howed⟩, htimer, hroom, hreset⟩
    exact ⟨hsize, hloops, houtput, halarm, hnum, hflight, hset, hfirst, hlater, htimer, howed, hroom, hreset⟩

/-! ## The owed ENGINE events -/

/-- An owed event brought up to date stays of its kind (R137). -/
theorem sameKind_update {old e : EngineEvent} (h : old.sameKind e = true) (y : EngineEvent) :
    y.sameKind (old.update e) = y.sameKind e := by
  rcases (sameKind_iff old e).1 h with rfl | ⟨c, d, rfl, rfl⟩ | ⟨n, k, rfl, rfl⟩
  · cases old <;> cases y <;> rfl
  · rfl
  · cases y <;> rfl

/-- The event placed last in the owed set is the only one of its kind (R137). -/
theorem pairwise_oweEvent {owed : List EngineEvent} (h : owed.Pairwise fun a b => a.sameKind b = false)
    (e : EngineEvent) : (oweEvent owed e).Pairwise fun a b => a.sameKind b = false := by
  have happend (l : List EngineEvent) (x : EngineEvent) (hl : l.Pairwise fun a b => a.sameKind b = false)
      (hx : ∀ y ∈ l, y.sameKind x = false) : (l ++ [x]).Pairwise fun a b => a.sameKind b = false :=
    List.pairwise_append.2 ⟨hl, List.pairwise_singleton _ _, fun y hy z hz => List.mem_singleton.1 hz ▸ hx y hy⟩
  unfold oweEvent
  split
  · next old hold =>
    have hkind : old.sameKind e = true := List.find?_some (p := fun x : EngineEvent => x.sameKind e) hold
    refine happend _ _ (h.filter _) fun y hy => ?_
    rw [sameKind_update hkind]
    simpa using (List.mem_filter.1 hy).2
  · next hnone => exact happend _ _ h fun y hy => by simpa using List.find?_eq_none.1 hnone y hy

/-! ## The moves of the report unit -/

/-- What an offer or a change of the settings does to the report unit: the entries stay as the invariant sees them, or a
QUEUED entry is appended where it may stand, or an ENGINE event is owed for want of room (R135 to R137, R149, R150). -/
inductive RepMove (u u' : ReportUnit) : Prop
  | keep : u'.views = u.views → u'.nextRsn = u.nextRsn → u'.engineOwed = u.engineOwed → u'.retryTimer = u.retryTimer →
      (u.window ≤ 16 ∧ u.defaultWindow ≤ 16 ∧ u.retryLimit ≤ 7 →
        u'.window ≤ 16 ∧ u'.defaultWindow ≤ 16 ∧ u'.retryLimit ≤ 7) → RepMove u u'
  | append (r : Report) : u.store.length < 24 → ((queuedEntry r).ofLoops = true → u.store.length < 22) →
      (∀ i, (queuedEntry r).queuedOutputOf i = true → u.store.any (ReportEntry.queuedOutputOf i) = false) →
      (∀ i, (queuedEntry r).queuedAlarmOf i = true → u.store.any (ReportEntry.queuedAlarmOf i) = false) →
      u' = u.append r → RepMove u u'
  | owe (e : EngineEvent) : 24 ≤ u.store.length → u' = { u with engineOwed := oweEvent u.engineOwed e } → RepMove u u'

namespace RepMove

variable {u u' : ReportUnit}

/-- Entries replaced by others that the invariant sees alike. -/
theorem restored {store : List ReportEntry} (h : store.map ReportEntry.view = u.views) :
    RepMove u { u with store := store } := .keep h rfl rfl rfl id

theorem refl (u : ReportUnit) : RepMove u u := .restored rfl

theorem appendEngine (e : EngineEvent) (h : u.store.length < 24) : RepMove u (u.append (.engine e)) :=
  .append (.engine e) h nofun nofun nofun rfl

theorem offerOutput (u : ReportUnit) (r : OutputReport) : RepMove u (u.offerOutput r).1 := by
  unfold ReportUnit.offerOutput
  split
  · exact .restored (map_updateFirst (fun _ => view_replaceOutput) _)
  · next hnone =>
    split
    · next hroom =>
      refine .append (.output r) (Nat.lt_trans hroom (by decide)) (fun _ => hroom) (fun i hi => ?_) nofun rfl
      obtain ⟨-, o, ho, rfl⟩ := queuedOutputOf_iff.1 hi
      cases ho
      exact Bool.eq_false_iff.2 hnone
    · exact .refl u

theorem offerAlarm (u : ReportUnit) (r : AlarmReport) : RepMove u (u.offerAlarm r).1 := by
  unfold ReportUnit.offerAlarm
  split
  · exact .restored (map_updateFirst (fun _ => view_mergeAlarm) _)
  · next hnone =>
    split
    · next hroom =>
      refine .append (.alarm r) (Nat.lt_trans hroom (by decide)) (fun _ => hroom) nofun (fun i hi => ?_) rfl
      obtain ⟨-, o, ho, rfl⟩ := queuedAlarmOf_iff.1 hi
      cases ho
      exact Bool.eq_false_iff.2 hnone
    · exact .refl u

theorem placeEngine (u : ReportUnit) (e : EngineEvent) : RepMove u (u.placeEngine e) := by
  unfold ReportUnit.placeEngine
  split
  · next hroom => exact .appendEngine e hroom
  · next hfull => exact .owe e (Nat.le_of_not_lt hfull) rfl

theorem offerEngine (u : ReportUnit) (e : EngineEvent) : RepMove u (u.offerEngine e) := by
  unfold ReportUnit.offerEngine
  split
  · split
    · exact .restored (map_updateFirst (fun e _ => view_addDropped _ e) _)
    · exact placeEngine u _
  · exact placeEngine u _

theorem holding (h : RepMove u u') : u'.holding = u.holding := by
  cases h with
  | keep hviews => rw [ReportUnit.holding_eq_countP, hviews, ← ReportUnit.holding_eq_countP]
  | append r _ _ _ _ hu =>
    subst hu
    exact List.countP_append
  | owe e _ hu =>
    subst hu
    rfl

theorem length (h : RepMove u u') : u.store.length ≤ u'.store.length := by
  cases h with
  | keep hviews => exact (by simpa [ReportUnit.views] using congrArg List.length hviews : _ = _).ge
  | append r _ _ _ _ hu =>
    subst hu
    simp [ReportUnit.append]
  | owe e _ hu =>
    subst hu
    exact le_rfl

theorem retryTimer (h : RepMove u u') : u'.retryTimer = u.retryTimer := by
  cases h with
  | keep _ _ _ htimer => exact htimer
  | append r _ _ _ _ hu => rw [hu]; rfl
  | owe e _ hu => rw [hu]

theorem owedForRoom (h : RepMove u u') (hu : u.OwedForRoom) : u'.OwedForRoom := by
  cases h with
  | keep hviews _ howed =>
    have hlength : u'.store.length = u.store.length := by simpa [ReportUnit.views] using congrArg List.length hviews
    rwa [ReportUnit.OwedForRoom, hlength, howed]
  | append r hroom _ _ _ hu' =>
    subst hu'
    exact fun hne => absurd (hu hne) (Nat.not_le.2 hroom)
  | owe e hfull hu' =>
    subst hu'
    exact fun _ => hfull

theorem shaped (h : RepMove u u') (hu : u.Shaped) : u'.Shaped := by
  obtain ⟨hstore, hset, howed⟩ := hu
  cases h with
  | keep hviews hrsn howed' _ hset' =>
    exact ReportUnit.shaped_of (held := u.holding) (by rwa [hviews, hrsn]) (hset' hset) (by rwa [howed'])
  | append r hroom hloops houtput halarm hu' =>
    subst hu'
    have hviews : (u.append r).views = u.views ++ [(queuedEntry r).view] := List.map_append
    have hlength : u.views.length = u.store.length := List.length_map _
    have hnone {p : EntryView → Bool} (h : u.store.any (fun e => p e.view) = false) : u.views.countP p = 0 := by
      rwa [ReportUnit.views, List.countP_map, ← ReportUnit.any_eq_false_iff_countP]
    refine ReportUnit.shaped_of (held := u.holding) ?_ hset howed
    rw [hviews]
    exact hstore.append rfl rfl (hlength ▸ hroom) (fun hr => hlength ▸ hloops hr)
      (fun i hi => hnone (houtput i hi)) (fun i hi => hnone (halarm i hi))
  | owe e _ hu' =>
    subst hu'
    exact ⟨hstore, hset, pairwise_oweEvent howed e⟩

end RepMove

end Sys2Proof.Machine
end

section
/-! SUPPORT. What an operation does to the report unit, the link state and the power: the moves of a state, and the
operations of the loops, the modes and the requests as chains of them. -/

namespace Sys2Proof.Machine

/-! ## The moves of a state -/

/-- A move of the report unit under the same link state, or another running or link state of its retry timer: it runs
behind the move where it ran before and no entry to MUTE has come, or where entries hold an RSN outside MUTE (R143,
R148). -/
inductive StoreMove (s t : State) : Prop
  | unit : RepMove s.rep t.rep → t.link.state = s.link.state → t.power = s.power → StoreMove s t
  | timer (x : Option Nat) : t.rep = { s.rep with retryTimer := x } → t.power = s.power →
      (x.isSome = true → (s.rep.retryTimer.isSome = true ∧ (t.link.state = .mute → s.link.state = .mute))
        ∨ (0 < s.rep.holding ∧ t.link.state ≠ .mute)) → StoreMove s t

theorem StoreMove.power {s t : State} (h : StoreMove s t) : t.power = s.power := by
  cases h with
  | unit _ _ hpower => exact hpower
  | timer x _ hpower => exact hpower

theorem StoreMove.shaped {s t : State} (h : StoreMove s t) (hs : s.rep.Shaped) : t.rep.Shaped := by
  cases h with
  | unit hrep => exact hrep.shaped hs
  | timer x hrep =>
    rw [hrep]
    exact ⟨hs.store, hs.settings, hs.owedKinds⟩

theorem StoreMove.owedForRoom {s t : State} (h : StoreMove s t) (hs : s.rep.OwedForRoom) : t.rep.OwedForRoom := by
  cases h with
  | unit hrep => exact hrep.owedForRoom hs
  | timer x hrep =>
    rw [hrep]
    exact hs

theorem StoreMove.timerFits {s t : State} (h : StoreMove s t) (hs : s.rep.TimerFits s.link.state) :
    t.rep.TimerFits t.link.state := by
  intro hruns
  cases h with
  | unit hrep hlink =>
    rw [hrep.holding, hlink]
    exact hs (hrep.retryTimer ▸ hruns)
  | timer x hrep _ hx =>
    have hholding : t.rep.holding = s.rep.holding := by rw [hrep]; rfl
    rw [hholding]
    rcases hx (by rwa [hrep] at hruns) with ⟨hran, hmute⟩ | hfits
    · exact ⟨(hs hran).1, fun hm => (hs hran).2 (hmute hm)⟩
    · exact hfits

/-- A chain of moves of the report unit, the link state and the retry timer. -/
def StoreMoves : State → State → Prop := Relation.ReflTransGen StoreMove

namespace StoreMoves

theorem refl (s : State) : StoreMoves s s := Relation.ReflTransGen.refl

theorem trans {s t u : State} (h : StoreMoves s t) (k : StoreMoves t u) : StoreMoves s u :=
  Relation.ReflTransGen.trans h k

theorem one {s t : State} (h : StoreMove s t) : StoreMoves s t := Relation.ReflTransGen.single h

/-- What leaves the report unit, the link state and the power alone. -/
theorem same {s t : State} (hrep : t.rep = s.rep) (hlink : t.link.state = s.link.state) (hpower : t.power = s.power) :
    StoreMoves s t := one (.unit (hrep ▸ .refl _) hlink hpower)

theorem keeps {P : State → Prop} (hP : ∀ s t, StoreMove s t → P s → P t) {s t : State} (h : StoreMoves s t)
    (hs : P s) : P t := by
  induction h with
  | refl => exact hs
  | tail _ hm ih => exact hP _ _ hm ih

section

variable {s t : State} (h : StoreMoves s t)
include h

theorem power : t.power = s.power := h.keeps (P := fun t => t.power = s.power) (fun _ _ hm hs => hm.power.trans hs) rfl

theorem shaped : s.rep.Shaped → t.rep.Shaped := h.keeps (P := fun t => t.rep.Shaped) fun _ _ => StoreMove.shaped

theorem owedForRoom : s.rep.OwedForRoom → t.rep.OwedForRoom :=
  h.keeps (P := fun t => t.rep.OwedForRoom) fun _ _ => StoreMove.owedForRoom

theorem timerFits : s.rep.TimerFits s.link.state → t.rep.TimerFits t.link.state :=
  h.keeps (P := fun t => t.rep.TimerFits t.link.state) fun _ _ => StoreMove.timerFits

end

/-- What is done loop by loop, each time a chain of moves, is a chain of moves. -/
theorem foldl {f : LoopId → State → State} (hf : ∀ i t, StoreMoves t (f i t)) (l : List LoopId) (s : State) :
    StoreMoves s (l.foldl (fun t i => f i t) s) := by
  induction l generalizing s with
  | nil => exact .refl s
  | cons i rest ih => exact (hf i s).trans (ih (f i s))

theorem eachLoop {f : LoopId → State → State} (hf : ∀ i t, StoreMoves t (f i t)) (s : State) :
    StoreMoves s (s.eachLoop f) := foldl hf allLoops s

theorem eachNamed {f : LoopId → State → State} (hf : ∀ i t, StoreMoves t (f i t)) (m : LoopMask) (s : State) :
    StoreMoves s (s.eachNamed m f) :=
  eachLoop (fun i t => by
    split
    · exact hf i t
    · exact .refl t) s

/-! ## Offers and loop entries -/

theorem modLoop (s : State) (i : LoopId) (f : LoopEntry → LoopEntry) : StoreMoves s (s.modLoop i f) :=
  .same rfl rfl rfl

theorem offerEngine (s : State) (e : EngineEvent) : StoreMoves s (s.offerEngine e) :=
  .one (.unit (.offerEngine s.rep e) rfl rfl)

theorem offerOutput (s : State) (r : OutputReport) : StoreMoves s (s.offerOutput r) := by
  refine .one (.unit ?_ ?_ ?_)
  · rw [offerOutput_rep]
    exact .offerOutput s.rep r
  all_goals
    obtain ⟨u, ls, h⟩ := offerOutput_only s r
    rw [h]

theorem produceOutput (s : State) (r : OutputReport) : StoreMoves s (s.produceOutput r) :=
  (modLoop s r.loop _).trans (offerOutput _ r)

theorem safeOutput (s : State) (i : LoopId) : StoreMoves s (s.safeOutput i) := by
  unfold State.safeOutput
  split
  · exact .refl s
  · split
    · exact .refl s
    · exact produceOutput s _

theorem completionOutput (s : State) (i : LoopId) (d : Definition) (x : Instance) (m : Marks) :
    StoreMoves s (s.completionOutput i d x m) := by
  unfold State.completionOutput
  dsimp only
  split
  · exact (modLoop s i _).trans (produceOutput _ _)
  · exact modLoop s i _

theorem offerAlarm (s : State) (i : LoopId) (f : FlagSet) : StoreMoves s (s.offerAlarm i f) := by
  by_cases hroom : s.rep.RoomFor i
  · rw [State.offerAlarm_taken hroom]
    exact .one (.unit (.offerAlarm s.rep _) rfl rfl)
  · rw [State.offerAlarm_refused hroom]
    exact .same rfl rfl rfl

theorem raiseAlarm (s : State) (i : LoopId) (f : FlagSet) : StoreMoves s (s.raiseAlarm i f) := by
  unfold State.raiseAlarm
  split
  · exact .refl s
  · exact offerAlarm s i _

theorem refreshAlert (s : State) : StoreMoves s s.refreshAlert := .same rfl rfl rfl

theorem handAlarms (s : State) (i : LoopId) (f : FlagSet) : StoreMoves s (s.handAlarms i f) :=
  ((modLoop s i _).trans (raiseAlarm _ i _)).trans (refreshAlert _)

theorem remask (s : State) (i : LoopId) (m : FlagSet) : StoreMoves s (s.remask i m) :=
  (modLoop s i _).trans (raiseAlarm _ i _)

theorem admitAlarmOwed (s : State) : StoreMoves s s.admitAlarmOwed := by
  rw [admitAlarmOwed_eq]
  refine eachLoop (fun i t => ?_) s
  unfold admitTurn
  split
  · exact offerAlarm t i _
  · exact .refl t

/-! ## The computation unit, the modes and faults -/

theorem endInstance (s : State) (i : LoopId) : StoreMoves s (s.endInstance i) := .same rfl rfl rfl

theorem settleChoice (s : State) : StoreMoves s s.settleChoice := by
  obtain ⟨u, ls, h⟩ := settleChoice_only s
  rw [h]
  exact .same rfl rfl rfl

theorem enterHeld (s : State) (i : LoopId) (f : LoopEntry → LoopEntry) : StoreMoves s (s.enterHeld i f) := by
  unfold State.enterHeld
  dsimp only
  split
  · exact (modLoop s i f).trans (safeOutput _ i)
  · exact modLoop s i f

theorem holdForSafe (s : State) (i : LoopId) : StoreMoves s (s.holdForSafe i) := by
  unfold State.holdForSafe
  split
  · exact enterHeld s i _
  · exact modLoop s i _
  · exact .refl s

theorem claimSafe (s : State) (c : SafeCause) : StoreMoves s (s.claimSafe c) := by
  unfold State.claimSafe
  split
  · exact .refl s
  · dsimp only
    have hmode : StoreMoves s { s with ctl := { s.ctl with mode := .safe, safeCause := c, safeN := .low } } :=
      .same rfl rfl rfl
    have hheld := (hmode.trans (offerEngine _ (.safeEntered c))).trans (eachLoop (fun i t => holdForSafe t i) _)
    have hflush : ∀ t : State, StoreMoves t (State.settleChoice { t with cu := t.cu.flush }) := fun t =>
      .trans (t := { t with cu := t.cu.flush }) (.same rfl rfl rfl) (settleChoice _)
    exact hheld.trans (hflush _)

theorem enterRun (s : State) : StoreMoves s s.enterRun := by
  have hmode : StoreMoves s { s with ctl := { s.ctl with mode := .run, safeN := .high } } := .same rfl rfl rfl
  exact (hmode.trans (offerEngine _ .runEntered)).trans (eachLoop (fun i t => modLoop t i _) _)

theorem faultLoop (s : State) (i : LoopId) (handed : FlagSet) : StoreMoves s (s.faultLoop i handed) :=
  (((endInstance s i).trans (modLoop _ i _)).trans (handAlarms _ i _)).trans (safeOutput _ i)

/-! ## Releases and stage completions -/

theorem missRelease (s : State) (i : LoopId) (d : Definition) : StoreMoves s (s.missRelease i d) := by
  unfold State.missRelease
  dsimp only
  split
  · exact (modLoop s i _).trans (faultLoop _ i _)
  · exact (modLoop s i _).trans (handAlarms _ i _)

theorem takeRelease (s : State) (i : LoopId) (d : Definition) (stale : Bool) :
    StoreMoves s (s.takeRelease i d stale) := by
  have htaken : ∀ u : CompUnit, StoreMoves s { s.modLoop i (fun l => l.taken d) with cu := u } := fun u =>
    .same rfl rfl rfl
  unfold State.takeRelease
  dsimp only
  split
  · exact (htaken _).trans (handAlarms _ i _)
  · exact htaken _

theorem releaseSteps (s : State) (i : LoopId) (d : Definition) : StoreMoves s (s.releaseSteps i d) := by
  unfold State.releaseSteps
  split
  · exact missRelease s i d
  · split
    · split
      · exact takeRelease s i d true
      · exact (modLoop s i _).trans (handAlarms _ i flagStale)
      · exact faultLoop s i _
    · exact takeRelease s i d false

theorem dropRunning (s : State) : StoreMoves s s.dropRunning := .same rfl rfl rfl

theorem stageEnded (s : State) (x : Instance) (d : Definition) (st : StageDesc) :
    StoreMoves s (s.stageEnded x d st) := by
  unfold State.stageEnded
  dsimp only
  split
  · exact (dropRunning s).trans (faultLoop _ _ _)
  · split
    · exact (((dropRunning s).trans (modLoop _ _ _)).trans (handAlarms _ _ _)).trans (completionOutput _ _ _ _ _)
    · exact .same rfl rfl rfl

/-! ## Requests -/

theorem maskRequest {s : State} (p : List Byte) (check : LoopEntry → Option Result) {act : LoopMask → State → State}
    (hact : ∀ m, StoreMoves s (act m s)) : StoreMoves s (s.maskRequest p check act).1 := by
  rcases maskRequest_cases s p check act with h | ⟨h, -⟩ <;> rw [h]
  · exact .refl s
  · exact hact _

theorem armLoop (p : List Byte) (s : State) : StoreMoves s (reqArmLoop p s).1 :=
  maskRequest p armCheck fun m => eachNamed (fun i t => modLoop t i _) m s

theorem unholdLoop (p : List Byte) (s : State) : StoreMoves s (reqUnholdLoop p s).1 :=
  maskRequest p unholdCheck fun m => eachNamed (fun i t => modLoop t i _) m s

theorem holdLoop (s : State) (i : LoopId) : StoreMoves s (s.holdLoop i) := by
  unfold State.holdLoop
  split
  · exact .refl s
  · exact (endInstance s i).trans (enterHeld _ i _)

theorem reqHoldLoop (p : List Byte) (s : State) : StoreMoves s (Machine.reqHoldLoop p s).1 :=
  maskRequest p holdCheck fun m => (eachNamed (fun i t => holdLoop t i) m s).trans (settleChoice _)

theorem clearLoop (s : State) (i : LoopId) : StoreMoves s (s.clearLoop i) := by
  unfold State.clearLoop
  split
  · exact .refl s
  · exact .same rfl rfl rfl

theorem reqClearLoop (p : List Byte) (s : State) : StoreMoves s (Machine.reqClearLoop p s).1 :=
  maskRequest p (fun _ => none) fun m =>
    ((eachNamed (fun i t => clearLoop t i) m s).trans (refreshAlert _)).trans (settleChoice _)

theorem defineLoop (p : List Byte) (s : State) : StoreMoves s (reqDefineLoop p s).1 := by
  unfold reqDefineLoop
  split
  · exact .refl s
  · split
    · split
      · exact .same rfl rfl rfl
      · exact .refl s
    · exact .refl s

theorem presetLoop (p : List Byte) (s : State) : StoreMoves s (reqPresetLoop p s).1 := by
  rcases presetLoop_cases p s with h | ⟨i, v, ws, h⟩ <;> rw [h]
  · exact .refl s
  · exact modLoop s i _

theorem loadCoef (p : List Byte) (s : State) : StoreMoves s (reqLoadCoef p s).1 := by
  rcases loadCoef_cases p s with h | ⟨i, k, c, h⟩ <;> rw [h]
  · exact .refl s
  · exact modLoop s i _

theorem commit (s : State) (m : LoopMask) (f : LoopEntry → LoopEntry) : StoreMoves s (s.commit m f).1 := by
  unfold State.commit
  split
  · exact .refl s
  · split
    · exact .refl s
    · exact eachNamed (fun i t => modLoop t i f) m s

theorem commitCoef (p : List Byte) (s : State) : StoreMoves s (reqCommitCoef p s).1 := by
  unfold reqCommitCoef
  split
  · exact .refl s
  · split
    · exact commit s _ _
    · exact commit s _ _
    · exact .refl s

theorem writeSamples (p : List Byte) (s : State) : StoreMoves s (reqWriteSamples p s).1 := by
  unfold reqWriteSamples
  dsimp only
  split
  · exact .refl s
  · split
    · exact .refl s
    · split
      · exact .refl s
      · next pairs _ =>
        rw [accept, writeSlots_eq]
        exact .same rfl rfl rfl

/-- CONFIGURE stores settings in their ranges alone (R178). -/
theorem configure (p : List Byte) (s : State) : StoreMoves s (reqConfigure p s).1 := by
  unfold reqConfigure
  dsimp only
  split
  · exact .refl s
  · split
    · exact .refl s
    · next hlegal =>
      split
      · exact .refl s
      · refine .one (.unit (.keep rfl rfl rfl rfl fun hset => ⟨hset.1, ?_⟩) rfl rfl)
        simp only [Bool.not_eq_false, configureLegal, Bool.and_eq_true, decide_eq_true_eq] at hlegal
        obtain ⟨⟨⟨⟨-, hwindow⟩, -⟩, -⟩, hlimit⟩ := hlegal
        exact ⟨hwindow, hlimit⟩

theorem enterSafe (p : List Byte) (s : State) : StoreMoves s (reqEnterSafe p s).1 := by
  unfold reqEnterSafe
  split
  · exact .refl s
  · exact claimSafe s .host

theorem resume (p : List Byte) (s : State) : StoreMoves s (reqResume p s).1 := by
  unfold reqResume
  split
  · exact .refl s
  · split
    · exact .refl s
    · split
      · exact .refl s
      · exact enterRun s

theorem reset (p : List Byte) (s : State) : StoreMoves s (reqReset p s).1 := by
  unfold reqReset
  split <;> exact .same rfl rfl rfl

theorem clearCause (p : List Byte) (s : State) : StoreMoves s (reqClearCause p s).1 := by
  unfold reqClearCause
  split <;> exact .same rfl rfl rfl

theorem clearAlarms (p : List Byte) (s : State) : StoreMoves s (reqClearAlarms p s).1 := by
  unfold reqClearAlarms
  split
  · exact .refl s
  · split
    · exact .refl s
    · split
      · exact .refl s
      · exact (eachNamed (fun i t => modLoop t i _) _ s).trans (refreshAlert _)

theorem maskAlarms (p : List Byte) (s : State) : StoreMoves s (reqMaskAlarms p s).1 := by
  unfold reqMaskAlarms
  split
  · exact .refl s
  · split
    · exact .refl s
    · split
      · exact .refl s
      · split
        · exact .refl s
        · exact (eachNamed (fun i t => remask t i _) _ s).trans (refreshAlert _)

theorem judge (f : Frame) (s : State) : StoreMoves s (Machine.judge f s).1 := by
  obtain ⟨h1, h2, h3, h4, h5, h6, h7⟩ := reqReads_only f.payload s
  unfold Machine.judge carryOut
  split
  · next r hr =>
    split at hr <;> cases hr
    · rw [h1]; exact .refl s
    · rw [h2]; exact .refl s
    · exact configure _ s
    · rw [h3]; exact .refl s
    · exact enterSafe _ s
    · exact resume _ s
    · exact reset _ s
    · exact clearCause _ s
    · exact defineLoop _ s
    · exact armLoop _ s
    · exact reqHoldLoop _ s
    · exact unholdLoop _ s
    · exact reqClearLoop _ s
    · rw [h4]; exact .refl s
    · exact presetLoop _ s
    · exact loadCoef _ s
    · exact commitCoef _ s
    · rw [h5]; exact .refl s
    · exact writeSamples _ s
    · rw [h6]; exact .refl s
    · rw [h7]; exact .refl s
    · exact clearAlarms _ s
    · exact maskAlarms _ s
  · exact .refl s

/-! ## The link state and the arrival of frames -/

/-- A change of the LEC hands its ENGINE event on, stops the retry timer at the entry to MUTE, and restarts it at the
exit from MUTE while entries hold an RSN (R148, R164, R165). -/
theorem changeLec (s : State) (lec : BitVec 8) : StoreMoves s (s.changeLec lec) := by
  have hlink {l : LinkState} (hl : l = .mute → s.link.state = .mute) :
      StoreMoves s { s with link := { s.link with lec := lec, state := l } } :=
    .one (.timer s.rep.retryTimer rfl rfl fun h => .inl ⟨h, hl⟩)
  have hmute (l : LinkState) : StoreMoves s { s with
      link := { s.link with lec := lec, state := l }, rep := { s.rep with retryTimer := none } } :=
    .one (.timer none rfl rfl nofun)
  have hexit (t : State) (ht : t.link.state ≠ .mute) : StoreMoves t { t with rep := t.rep.muteExit } := by
    unfold ReportUnit.muteExit
    split
    · next hheld => exact .one (.timer (some t.rep.retryTimeout) rfl rfl fun _ => .inr ⟨hheld, ht⟩)
    · exact .refl t
  unfold State.changeLec
  dsimp only
  split
  · next hs ha => exact (hlink (by rw [ha]; nofun)).trans (offerEngine _ _)
  · next hs ha => exact (hlink (by rw [ha]; nofun)).trans (offerEngine _ _)
  · next hs ha =>
    exact ((hlink (by rw [ha]; nofun)).trans (offerEngine _ _)).trans (hexit _ (ne_of_eq_of_ne ha nofun))
  · exact (hmute _).trans (claimSafe _ _)
  · exact (hmute _).trans (claimSafe _ _)
  · next _ _ hok hwarn =>
    refine hlink fun ha => ?_
    cases hs : s.link.state with
    | ok => exact absurd ha (hok hs)
    | warn => exact absurd ha (hwarn hs)
    | mute => rfl

theorem arrive (s : State) (kind : Byte) : StoreMoves s (s.arrive kind) := by
  have h : StoreMoves s { s.toHunt.restartSupervision with
      link := { s.toHunt.restartSupervision.link with startUpHold := false } } := .same rfl rfl rfl
  unfold State.arrive
  dsimp only
  split
  · exact h
  · exact h.trans (changeLec _ _)

theorem placeInSlot (s : State) (f : Frame) : StoreMoves s (s.placeInSlot f) := by
  unfold State.placeInSlot
  split <;> exact .same rfl rfl rfl

end StoreMoves

end Sys2Proof.Machine
end

section
/-! SUPPORT. What keeps the invariant of the report store beside the offers: the taking of a report, entries that leave
the store, the retry timer's expiry (R141 to R146). -/

namespace Sys2Proof.Machine

/-! ## The taking of a report (R141 to R143) -/

theorem isQueued_iff_view {e : ReportEntry} : e.isQueued = true ↔ e.view.rsn = none := by
  cases h : e.state <;> simp [ReportEntry.isQueued, ReportEntry.view, EntryState.rsn?, h]

namespace ReportUnit

variable {u u' : ReportUnit} {e : ReportEntry}

theorem holding_pos (he : e ∈ u.store) (h : e.view.rsn ≠ none) : 0 < u.holding :=
  List.countP_pos_iff.2 ⟨e, he, Option.isSome_iff_ne_none.2 h⟩

theorem Shaped.startTimer (h : u.Shaped) : u.startTimer.Shaped := by
  rw [startTimer_eq]
  exact ⟨h.store, h.settings, h.owedKinds⟩

/-- A RESEND entry sent again keeps the store as the invariant sees it (R142). -/
theorem Shaped.sentAgain (h : u.Shaped) {store : List ReportEntry}
    (ht : takeFirst ReportEntry.isResend ReportEntry.sendAgain u.store = some (e, store)) :
    ({ u with store := store } : ReportUnit).Shaped ∧ 0 < ({ u with store := store } : ReportUnit).holding := by
  obtain ⟨pre, x, post, hstore, -, hx, rfl, rfl⟩ := takeFirst_eq_some ht
  obtain ⟨r, hr⟩ := isResend_iff.1 hx
  have hviews : (pre ++ x.sendAgain :: post).map ReportEntry.view = u.views := by
    rw [views, hstore]
    simp only [List.map_append, List.map_cons, view_sendAgain]
  refine ⟨(RepMove.restored hviews).shaped h, holding_pos (e := x.sendAgain) (by simp) ?_⟩
  rw [view_sendAgain]
  simp [ReportEntry.view, hr, EntryState.rsn?]

/-- The first QUEUED entry sent becomes the last of the RSN holders (R142). -/
theorem Shaped.sentFirst (h : u.Shaped) (hroom : u.holding < u.window) {store : List ReportEntry}
    (ht : takeFirst ReportEntry.isQueued (ReportEntry.sendFirst u.nextRsn) u.store = some (e, store)) :
    ({ u with store := store, nextRsn := u.nextRsn + 1 } : ReportUnit).Shaped
      ∧ 0 < ({ u with store := store, nextRsn := u.nextRsn + 1 } : ReportUnit).holding := by
  obtain ⟨pre, x, post, hstore, hpre, hx, rfl, rfl⟩ := takeFirst_eq_some ht
  refine ⟨shaped_of (held := u.holding + 1) ?_ h.settings h.owedKinds,
    holding_pos (e := x.sendFirst u.nextRsn) (by simp) nofun⟩
  have hshape := h.store
  rw [views, hstore, List.map_append, List.map_cons] at hshape
  rw [views, List.map_append, List.map_cons]
  refine hshape.sent (fun w hw => ?_) (isQueued_iff_view.1 hx) (hroom.trans_le h.settings.1) rfl rfl rfl
    (fun _ => rfl) (fun _ => rfl)
  obtain ⟨y, hy, rfl⟩ := List.mem_map.1 hw
  exact fun hnone => Bool.eq_false_iff.1 (hpre y hy) (isQueued_iff_view.2 hnone)

theorem Shaped.take (h : u.Shaped) (ht : u.take = some (e, u')) : u'.Shaped ∧ 0 < u'.holding := by
  have hholding (v : ReportUnit) : v.startTimer.holding = v.holding := by rw [holding, startTimer_store, holding]
  unfold ReportUnit.take at ht
  split at ht
  · next x store hresend =>
    cases ht
    split at hresend
    · obtain ⟨hshaped, hpos⟩ := h.sentAgain hresend
      exact ⟨hshaped.startTimer, (hholding _).symm ▸ hpos⟩
    · cases hresend
  · split at ht
    · next hroom =>
      split at ht
      · next x store hqueued =>
        cases ht
        obtain ⟨hshaped, hpos⟩ := h.sentFirst hroom hqueued
        exact ⟨hshaped.startTimer, (hholding _).symm ▸ hpos⟩
      · cases ht
    · cases ht

theorem take_engineOwed (ht : u.take = some (e, u')) : u'.engineOwed = u.engineOwed := by
  have hsame (v : ReportUnit) : v.startTimer.engineOwed = v.engineOwed := by rw [startTimer_eq]
  unfold ReportUnit.take at ht
  split at ht
  · cases ht
    exact hsame _
  · split at ht
    · split at ht
      · cases ht
        exact hsame _
      · cases ht
    · cases ht

/-! ## Entries that leave the store (R144 to R146) -/

theorem Shaped.removed (h : u.Shaped) {rest : List ReportEntry} (hrest : u.store = e :: rest) (hu : u'.store = rest)
    (hrsn : u'.nextRsn = u.nextRsn) (howed : u'.engineOwed = u.engineOwed)
    (hset : u'.window ≤ 16 ∧ u'.defaultWindow ≤ 16 ∧ u'.retryLimit ≤ 7) : u'.Shaped := by
  have hshape := h.store
  rw [views, hrest, List.map_cons] at hshape
  exact shaped_of (held := u.holding - 1) (by rw [views, hu, hrsn]; exact hshape.tail) hset (howed ▸ h.owedKinds)

theorem Shaped.windowed (h : u.Shaped) {w : Nat} (hw : w ≤ 16) : ({ u with window := w } : ReportUnit).Shaped :=
  ⟨h.store, ⟨hw, h.settings.2⟩, h.owedKinds⟩

theorem Shaped.acknowledged (h : u.Shaped) {a : Byte} {rest : List ReportEntry} (hrest : afterRsn a u.store = some rest) :
    ({ u with store := rest } : ReportUnit).Shaped := by
  obtain ⟨l, hl⟩ : ∃ l, l = u.store := ⟨_, rfl⟩
  rw [← hl] at hrest
  induction l generalizing u with
  | nil => cases hrest
  | cons x l ih =>
    have htail : ({ u with store := l } : ReportUnit).Shaped := h.removed hl.symm rfl rfl rfl h.settings
    rw [afterRsn] at hrest
    split at hrest
    · cases hrest
      exact htail
    · exact ih (u := { u with store := l }) htail hrest rfl

theorem expire_nil (h : u.store = []) : u.expire = u := by
  have hsame : ({ u with store := [] } : ReportUnit) = u := by rw [← h]
  unfold expire
  rw [h]
  exact hsame

theorem expire_cons {rest : List ReportEntry} (h : u.store = e :: rest) : u.expire = { u with
    store := { e.goBack with retryCount := e.goBack.retryCount + 1 } :: rest.map ReportEntry.goBack } := by
  unfold expire
  rw [h, List.map_cons]

theorem expire_engineOwed (u : ReportUnit) : u.expire.engineOwed = u.engineOwed := by
  unfold expire
  split <;> rfl

/-- An expiry within the retry limit leaves the store in shape (R144). -/
theorem Shaped.expired (h : u.Shaped) (hlimit : u.expire.overLimit = false) : u.expire.Shaped := by
  cases hstore : u.store with
  | nil => rwa [expire_nil hstore]
  | cons e rest =>
    have hshape := h.store
    rw [views, hstore, List.map_cons] at hshape
    rw [expire_cons hstore] at hlimit ⊢
    refine shaped_of (held := u.holding) ?_ h.settings h.owedKinds
    have hviews : views { u with
        store := { e.goBack with retryCount := e.goBack.retryCount + 1 } :: rest.map ReportEntry.goBack } =
          { e.view with retries := e.goBack.retryCount + 1 } :: rest.map ReportEntry.view := by
      rw [views, List.map_cons, List.map_map, ← view_goBack e]
      exact congrArg (_ :: ·) (List.map_congr_left fun x _ => view_goBack x)
    rw [hviews]
    exact hshape.retried ((Nat.le_of_not_lt (of_decide_eq_false hlimit)).trans h.settings.2.2)

/-- The first entry dropped at an expiry leaves the store in shape (R144, R145). -/
theorem Shaped.dropped (h : u.Shaped) : ({ u.expire with
    store := u.expire.store.tail, droppedCount := satInc u.expire.droppedCount } : ReportUnit).Shaped := by
  cases hstore : u.store with
  | nil =>
    have htail : u.store.tail = u.store := by rw [hstore, List.tail_nil]
    rw [expire_nil hstore, htail]
    exact ⟨h.store, h.settings, h.owedKinds⟩
  | cons e rest =>
    rw [expire_cons hstore]
    have hback : ({ u with store := e :: rest.map ReportEntry.goBack } : ReportUnit).Shaped :=
      (RepMove.restored (by simp [views, hstore, Function.comp_def, view_goBack])).shaped h
    exact hback.removed rfl rfl rfl rfl h.settings

/-! ## The owed reports admitted (R139) -/

theorem Shaped.admitEngineOwed (h : u.Shaped) {owed : List EngineEvent}
    (howed : owed.Pairwise fun a b => a.sameKind b = false) :
    (u.admitEngineOwed owed).Shaped ∧ (u.admitEngineOwed owed).OwedForRoom := by
  induction owed generalizing u with
  | nil => exact ⟨⟨h.store, h.settings, List.Pairwise.nil⟩, fun hne => absurd rfl hne⟩
  | cons e rest ih =>
    rw [ReportUnit.admitEngineOwed]
    split
    · next hroom => exact ih ((RepMove.appendEngine e hroom).shaped h) howed.of_cons
    · next hfull => exact ⟨⟨h.store, h.settings, howed⟩, fun _ => Nat.le_of_not_lt hfull⟩

theorem Shaped.rearmTimer (h : u.Shaped) (mute : Bool) : (u.rearmTimer mute).Shaped :=
  ⟨h.store, h.settings, h.owedKinds⟩

/-- The rearmed timer runs only where entries hold an RSN outside MUTE (R143, R148). -/
theorem timerFits_rearmTimer (u : ReportUnit) (l : LinkUnit) : (u.rearmTimer l.isMute).TimerFits l.state := by
  intro hruns
  have hholding : (u.rearmTimer l.isMute).holding = u.holding := rfl
  rw [hholding]
  unfold ReportUnit.rearmTimer at hruns
  dsimp only at hruns
  split at hruns
  · next h => exact ⟨h.1, by simpa [LinkUnit.isMute] using h.2⟩
  · cases hruns

end ReportUnit

theorem admitOwed_shaped {s : State} (h : s.rep.Shaped) :
    s.admitOwed.rep.Shaped ∧ s.admitOwed.rep.OwedForRoom ∧ s.admitOwed.power = s.power := by
  obtain ⟨hshaped, hroom⟩ := h.admitEngineOwed h.owedKinds
  have hmoves := StoreMoves.admitAlarmOwed s.engineAdmitted
  rw [admitOwed_eq]
  exact ⟨hmoves.shaped hshaped, hmoves.owedForRoom hroom, hmoves.power⟩

end Sys2Proof.Machine
end

section
/-! SUPPORT. Every event keeps the invariant of the report store. -/

namespace Sys2Proof.Machine

/-- The invariant of the report store in a part that runs. -/
structure StoreRuns (s : State) : Prop where
  power : s.power = .running
  shaped : s.rep.Shaped
  timer : s.rep.TimerFits s.link.state
  owed : s.rep.OwedForRoom

theorem StoreRuns.storeInv {s : State} (h : StoreRuns s) : StoreInv s :=
  storeInv_iff.2 ⟨h.shaped, h.timer, h.owed, fun hreset => by rw [h.power] at hreset; cases hreset⟩

theorem StoreInv.runs {s : State} (h : StoreInv s) (hp : s.power = .running) : StoreRuns s := by
  obtain ⟨hshaped, htimer, howed, -⟩ := storeInv_iff.1 h
  exact ⟨hp, hshaped, htimer, howed⟩

namespace StoreRuns

theorem moves {s t : State} (h : StoreRuns s) (m : StoreMoves s t) : StoreRuns t :=
  ⟨m.power.trans h.power, m.shaped h.shaped, m.timerFits h.timer, m.owedForRoom h.owed⟩

/-- A change that leaves the report unit, the link state and the power alone. -/
theorem same {s t : State} (h : StoreRuns s) (hrep : t.rep = s.rep) (hlink : t.link.state = s.link.state)
    (hpower : t.power = s.power) : StoreRuns t := h.moves (.same hrep hlink hpower)

/-- The retry timer rearmed restores the invariant (R143 to R146). -/
theorem rearmed {s : State} (hpower : s.power = .running) (h : s.rep.Shaped) (howed : s.rep.OwedForRoom) :
    StoreRuns { s with rep := s.rep.rearmTimer s.link.isMute } :=
  ⟨hpower, h.rearmTimer _, s.rep.timerFits_rearmTimer s.link, howed⟩

variable {s : State} (h : StoreRuns s)
include h

/-! ## The transmitter (R141, R142, R161) -/

theorem startReport : StoreRuns s.startReport := by
  unfold State.startReport
  split
  · exact h
  · next e u hoffered =>
    unfold State.reportOffered at hoffered
    split at hoffered
    · next hmay =>
      obtain ⟨hshaped, hpos⟩ := h.shaped.take hoffered
      have hmute : s.link.state ≠ .mute := by
        simp only [LinkUnit.mayReport, LinkUnit.isMute, Bool.and_eq_true, Bool.not_eq_true', beq_eq_false_iff_ne] at hmay
        exact hmay.2
      refine ⟨h.power, hshaped, fun _ => ⟨hpos, hmute⟩, fun hne => ?_⟩
      rw [ReportUnit.take_engineOwed hoffered] at hne
      exact (h.owed hne).trans (ReportUnit.storeKeeps_take hoffered).length
    · cases hoffered

theorem transmit : StoreRuns s.transmit := by
  unfold State.transmit
  split
  · exact h
  · exact h.same rfl rfl rfl
  · exact h.startReport

theorem transmitAfterResponse : StoreRuns s.transmitAfterResponse := by
  have hcount : StoreRuns { s with choices := s.choices + 1 } := h.same rfl rfl rfl
  unfold State.transmitAfterResponse
  split
  · dsimp only
    split
    · exact hcount.startReport
    · exact hcount.transmit
  · exact h.transmit

/-! ## Releases and stage completions -/

theorem releaseEvent (i : LoopId) : StoreRuns (s.releaseEvent i) := by
  unfold State.releaseEvent
  split
  · exact h
  · next d _ =>
    have hactive := StoreMoves.modLoop s i fun l => { l with state := .active }
    exact (h.moves ((hactive.trans (.releaseSteps _ i d)).trans (.settleChoice _))).transmit

omit h in
theorem eachLoop {f : LoopId → State → State} (hf : ∀ i t, StoreRuns t → StoreRuns (f i t)) {s : State}
    (h : StoreRuns s) : StoreRuns (s.eachLoop f) := by
  have hfold : ∀ (l : List LoopId) {t : State}, StoreRuns t → StoreRuns (l.foldl (fun t i => f i t) t) := by
    intro l
    induction l with
    | nil => exact fun ht => ht
    | cons i rest ih => exact fun ht => ih (hf i _ ht)
  exact hfold allLoops h

theorem tick : StoreRuns s.takeDueReleases.tickEvent := by
  have hdue : StoreRuns s.takeDueReleases := eachLoop (fun i t ht => ht.releaseEvent i) h
  have htick : ∀ (t : State) (b : TimeBase), StoreMoves t (State.settleChoice { t with time := b }) := fun t b =>
    .trans (t := { t with time := b }) (.same rfl rfl rfl) (.settleChoice _)
  exact hdue.moves (htick _ _)

theorem stageCompletion : StoreRuns s.stageCompletion := by
  have hsettled (t : State) (ht : StoreMoves s t) : StoreRuns t.settleChoice.transmit :=
    (h.moves (ht.trans (.settleChoice t))).transmit
  unfold State.stageCompletion
  split
  · next x _ _ =>
    refine hsettled _ ?_
    split
    · exact .dropRunning s
    · split
      · exact .dropRunning s
      · next d st _ => exact .stageEnded s x d st
  · exact h

/-! ## Requests -/

theorem serve (f : Frame) : StoreRuns (s.serve f) := by
  have hanswered : StoreRuns ((judge f s).1.respond f (judge f s).2) := (h.moves (.judge f s)).same rfl rfl rfl
  exact hanswered.transmitAfterResponse

omit h in
theorem dispatchUpTo (n : Nat) {s : State} (h : StoreRuns s) : StoreRuns (s.dispatchUpTo n) := by
  induction n generalizing s with
  | zero => exact h
  | succ n ih =>
    unfold State.dispatchUpTo
    split
    · exact h
    · next f rest _ =>
      split
      · have hslot : StoreRuns { s with link := { s.link with slots := rest } } := h.same rfl rfl rfl
        exact ih (hslot.serve f)
      · exact h

theorem submit (kind tag : Byte) (p : List Byte) : StoreRuns (s.submit kind tag p) :=
  dispatchUpTo _ (h.moves (.placeInSlot s _))

/-! ## Acknowledgement and expiry (R144 to R146) -/

theorem acknowledge (a : Byte) {w : Nat} (hw : w ≤ 16) : StoreRuns (s.acknowledge a w) := by
  unfold State.acknowledge
  split
  · exact ⟨h.power, h.shaped.windowed hw, h.timer, h.owed⟩
  · next rest hrest =>
    obtain ⟨hshaped, howed, hpower⟩ := admitOwed_shaped
      (s := { s with rep := { s.rep with store := rest, window := w } }) ((h.shaped.acknowledged hrest).windowed hw)
    exact rearmed (hpower.trans h.power) hshaped howed

theorem passAck (p : List Byte) : StoreRuns (s.passAck p) := by
  unfold State.passAck
  split
  · exact h.same rfl rfl rfl
  · next hlegal => exact h.acknowledge _ (Nat.le_of_not_lt (not_or.1 hlegal).2)

/-- The dropped first entry, the LEC raised, the owed reports admitted and REPORTS_DROPPED offered (R145). -/
theorem dropFirst : (State.dropFirst { s with rep := s.rep.expire }).rep.Shaped
    ∧ (State.dropFirst { s with rep := s.rep.expire }).rep.OwedForRoom
    ∧ (State.dropFirst { s with rep := s.rep.expire }).power = .running := by
  have hlec (t : State) (ht : t.rep.Shaped) (hp : t.power = .running) :
      ((t.raiseLec 8).admitOwed.offerEngine (.reportsDropped 1)).rep.Shaped
        ∧ ((t.raiseLec 8).admitOwed.offerEngine (.reportsDropped 1)).rep.OwedForRoom
        ∧ ((t.raiseLec 8).admitOwed.offerEngine (.reportsDropped 1)).power = .running := by
    have hraise : StoreMoves t (t.raiseLec 8) := .changeLec t _
    obtain ⟨hshaped, howed, hpower⟩ := admitOwed_shaped (hraise.shaped ht)
    have hoffer := StoreMoves.offerEngine (t.raiseLec 8).admitOwed (.reportsDropped 1)
    exact ⟨hoffer.shaped hshaped, hoffer.owedForRoom howed, hoffer.power.trans (hpower.trans (hraise.power.trans hp))⟩
  exact hlec _ h.shaped.dropped h.power

theorem retryExpiry : StoreRuns s.retryExpiry := by
  obtain ⟨hshaped, howed, hpower⟩ := h.dropFirst
  unfold State.retryExpiry
  dsimp only
  split
  · exact transmit (rearmed hpower hshaped howed)
  · next hlimit =>
    have hlength : s.rep.store.length ≤ s.rep.expire.store.length := s.rep.storeKeeps_expire.length
    have hroom : s.rep.expire.OwedForRoom := fun hne => (h.owed (s.rep.expire_engineOwed ▸ hne)).trans hlength
    exact transmit (rearmed (s := { s with rep := s.rep.expire }) h.power
      (h.shaped.expired (Bool.eq_false_iff.2 hlimit)) hroom)

/-! ## Resets and the line -/

theorem lineError (f : LinkCounters → LinkCounters) (n : Nat) :
    StoreRuns ((s.toHunt.modCounters f).raiseLec n).transmit := by
  have hcounted : StoreMoves s (s.toHunt.modCounters f) := .same rfl rfl rfl
  exact (h.moves (hcounted.trans (.changeLec _ _))).transmit

theorem framingErrorEvent : StoreRuns s.framingErrorEvent := by
  unfold State.framingErrorEvent
  split
  · exact h
  · exact h.lineError _ 4

/-- A link break keeps the RSN holders, and stops the retry timer (R149). -/
theorem breakEffects : StoreRuns s.breakEffects := by
  have hbreak (t : State) (ht : StoreRuns t) : StoreRuns { t with rep := t.rep.linkBreak } := by
    have hviews : (t.rep.store.map ReportEntry.goBack).map ReportEntry.view = t.rep.views := by
      rw [List.map_map]
      exact List.map_congr_left fun e _ => view_goBack e
    have hback := ((RepMove.restored hviews).shaped ht.shaped).windowed ht.shaped.settings.2.1
    exact ⟨ht.power, ⟨hback.store, hback.settings, hback.owedKinds⟩, nofun, fun hne => by
      rw [ReportUnit.linkBreak, List.length_map]
      exact ht.owed hne⟩
  have hok (l : LinkUnit) (hl : l.state = .ok) : StoreMoves s { s with link := l } :=
    .one (.timer s.rep.retryTimer rfl rfl fun hruns => .inl ⟨hruns, fun hm => by rw [hl] at hm; cases hm⟩)
  unfold State.breakEffects
  dsimp only
  split
  · exact hbreak _ (h.moves (hok _ rfl))
  · exact hbreak _ (h.moves ((hok _ rfl).trans (.offerEngine _ .linkReset)))

theorem goodFrame (kind tag : Byte) (p : List Byte) : StoreRuns (s.goodFrame kind tag p) := by
  have harrived := h.moves (.arrive s kind)
  unfold State.goodFrame
  split
  · exact (harrived.passAck p).transmit
  · exact (harrived.submit kind tag p).transmit

theorem receiveByte (b : Byte) : StoreRuns (s.receiveByte b) := by
  have hrx : ∀ rx, StoreRuns (s.receiving rx) := fun rx => h.same rfl rfl rfl
  unfold State.receiveByte
  split
  · split
    · exact hrx _
    · exact h
  · exact hrx _
  · exact hrx _
  · unfold State.lengthByte
    split
    · exact h.lineError _ 8
    · split <;> exact hrx _
  · dsimp only
    split <;> exact hrx _
  · exact hrx _
  · unfold State.frameEnded
    split
    · exact h.goodFrame _ _ _
    · exact h.lineError _ 8

end StoreRuns

/-! ## Resets (R151, R193) -/

theorem shaped_reset : ReportUnit.reset.Shaped :=
  ReportUnit.shaped_of (held := 0) (.nil 0) (by decide) List.Pairwise.nil

theorem storeInv_fullReset (s : State) (c : ResetCause) (flag : Bool) (straps : Straps) :
    StoreInv (s.fullReset c flag straps) :=
  storeInv_iff.2 ⟨shaped_reset, nofun, fun hne => absurd rfl hne, fun _ => rfl⟩

/-- Start-up admits the BOOT report into the empty store (R138). -/
theorem storeRuns_startUp {s : State} (h : StoreInv s) (hreset : s.power = .inReset) (rxdLow : Bool) :
    StoreRuns (s.startUp rxdLow) := by
  obtain ⟨hshaped, htimer, howed, hempty⟩ := storeInv_iff.1 h
  have hroom : s.rep.store.length < 24 := by
    rw [hempty hreset]
    decide
  have hboot : RepMove s.rep (s.startUp rxdLow).rep :=
    .append (.boot s.ctl.resetCause s.ctl.powerOnFlag Config.revision) hroom nofun nofun nofun rfl
  refine ⟨rfl, hboot.shaped hshaped, ?_, hboot.owedForRoom howed⟩
  intro hruns
  rw [hboot.retryTimer] at hruns
  rw [hboot.holding]
  exact htimer hruns

theorem storeRuns_commandReset (s : State) (straps : Straps) (rxdLow : Bool) :
    StoreRuns (s.commandReset straps rxdLow) :=
  storeRuns_startUp (storeInv_fullReset s _ _ straps) rfl rxdLow

namespace StoreRuns

variable {s : State} (h : StoreRuns s)
include h

theorem breakEvent (straps : Straps) : StoreRuns (s.breakEvent straps) := by
  unfold State.breakEvent
  split
  · exact h
  · split
    · exact storeRuns_commandReset _ straps true
    · exact h.breakEffects.transmit

theorem frameEndEvent (straps : Straps) (rxdLow : Bool) : StoreRuns (s.frameEndEvent straps rxdLow) := by
  unfold State.frameEndEvent
  split
  · exact h
  · exact storeRuns_commandReset s straps rxdLow
  · have hidle : StoreRuns { s with link := { s.link with tx := .idle } } := h.same rfl rfl rfl
    exact dispatchUpTo _ hidle.transmit

end StoreRuns

/-! ## The commands -/

section

variable {s t : State} (hs : StoreInv s) {f : State → State} (hf : ∀ u, StoreRuns u → StoreRuns (f u))
include hs hf

theorem storeInv_whenRunning (h : s.whenRunning f = .next t) : StoreInv t := by
  unfold State.whenRunning at h
  cases h
  split
  · next hpower => exact (hf s (hs.runs hpower)).storeInv
  · exact hs

theorem storeInv_whenTaking (h : s.whenTaking f = .next t) : StoreInv t :=
  storeInv_whenRunning hs (fun u hu => by
    split
    · exact hf u hu
    · exact hu) h

end

/-- A command's meaning keeps the report store's sizes, its RSN order and its retry timer's rule. -/
theorem storeInv_exec {c : Instr} {s t : State} (hs : StoreInv s) (h : exec c s = .next t) : StoreInv t := by
  cases hf : requestFrame c with
  | some fr =>
    rw [exec_request hf] at h
    exact storeInv_whenRunning hs (fun _ hu => hu.submit _ _ _) h
  | none =>
    cases c <;> simp only [requestFrame, reduceCtorEq] at hf
    case reportAck tag p => exact storeInv_whenTaking hs (fun _ hu => hu.goodFrame _ tag p) h
    case goodFrame kind tag p => exact storeInv_whenTaking hs (fun _ hu => hu.goodFrame kind tag p) h
    case crcError => exact storeInv_whenTaking hs (fun _ hu => hu.lineError _ 8) h
    case lengthError => exact storeInv_whenTaking hs (fun _ hu => hu.lineError _ 8) h
    case framingError data =>
      simp only [exec, execFramingError] at h
      refine storeInv_whenTaking hs (fun u hu => ?_) h
      split
      · exact hu.same rfl rfl rfl
      · exact hu.framingErrorEvent
    case gapTimerExpiry =>
      simp only [exec, execGapTimerExpiry] at h
      refine storeInv_whenRunning hs (fun u hu => ?_) h
      split
      · exact hu.lineError _ 4
      · exact hu
    case lineBreak straps => exact storeInv_whenRunning hs (fun _ hu => hu.breakEvent straps) h
    case startUpHoldEnd =>
      simp only [exec, execStartUpHoldEnd] at h
      refine storeInv_whenTaking hs (fun u hu => ?_) h
      split
      · have hended : StoreRuns { u with link := { u.link with startUpHold := false } } := hu.same rfl rfl rfl
        exact hended.transmit
      · exact hu
    case powerOnReset straps =>
      cases h
      exact storeInv_fullReset s _ _ straps
    case pinReset straps =>
      cases h
      exact storeInv_fullReset s _ _ straps
    case startUp rxdLow =>
      cases h
      split
      · next hreset => exact (storeRuns_startUp hs hreset rxdLow).storeInv
      · exact hs
    case frameEnd straps rxdLow => exact storeInv_whenRunning hs (fun _ hu => hu.frameEndEvent straps rxdLow) h
    case tick => exact storeInv_whenRunning hs (fun _ hu => hu.tick) h
    case release i => exact storeInv_whenRunning hs (fun _ hu => hu.releaseEvent i) h
    case stageCompletion => exact storeInv_whenRunning hs (fun _ hu => hu.stageCompletion) h
    case retryTimerExpiry =>
      simp only [exec, execRetryTimerExpiry] at h
      refine storeInv_whenRunning hs (fun u hu => ?_) h
      split
      · exact hu.retryExpiry
      · exact hu
    case supervisionExpiry =>
      simp only [exec, execSupervisionExpiry] at h
      refine storeInv_whenRunning hs (fun u hu => ?_) h
      split
      · have hclaimed : StoreRuns (u.claimSafe .supervision).restartSupervision :=
          (hu.moves (.claimSafe u .supervision)).same rfl rfl rfl
        exact hclaimed.transmit
      · exact hu
    case byteReceived b => exact storeInv_whenTaking hs (fun _ hu => hu.receiveByte b) h
    case rxdReturnsHigh =>
      simp only [exec, execRxdReturnsHigh] at h
      refine storeInv_whenRunning hs (fun u hu => ?_) h
      have hhigh : StoreRuns { u with link := { u.link with rxd := .taking } } := hu.same rfl rfl rfl
      split
      · exact hhigh.framingErrorEvent
      · exact hhigh

end Sys2Proof.Machine

open Sys2Proof Sys2Proof.Machine

/-- Settles O57, command by command: offers are moves that the invariant sees, and the taking of a report, the entries
that leave the store and the resets keep or restore it. -/
theorem reportStoreStaysOrdered : Obligations.ReportStoreStaysOrdered := by
  intro s t hs h
  unfold step at h
  split at h
  · cases h
    exact hs
  · next c rest _ =>
    have hparts := storeInv_iff.1 hs
    exact storeInv_exec (s := s.withPending rest) (storeInv_iff.2 hparts) h
end

section
/-! SUPPORT. REPORT_ACK: the entries up to an RSN, and what the arrival of the frame leaves of the RSNs held (R146). -/

namespace Sys2Proof.Machine

/-! ## The entries up to an RSN -/

theorem afterRsn_none {a : Byte} {l : List ReportEntry} (h : ∀ x ∈ l, ¬x.holds a) : afterRsn a l = none := by
  induction l with
  | nil => rfl
  | cons x l ih =>
    rw [List.forall_mem_cons] at h
    rw [afterRsn, if_neg (mt ReportEntry.holds_iff.2 h.1), ih h.2]

theorem afterRsn_split {a : Byte} {pre rest : List ReportEntry} {e : ReportEntry} (he : e.holds a)
    (hpre : ∀ x ∈ pre, ¬x.holds a) : afterRsn a (pre ++ e :: rest) = some rest := by
  induction pre with
  | nil => exact if_pos (ReportEntry.holds_iff.1 he)
  | cons x pre ih =>
    rw [List.forall_mem_cons] at hpre
    rw [List.cons_append, afterRsn, if_neg (mt ReportEntry.holds_iff.2 hpre.1), ih hpre.2]

/-! ## No RSN comes into the store by an offer -/

/-- No entry of the store holds the RSN `a`. -/
def ReportUnit.Lacks (u : ReportUnit) (a : Byte) : Prop := ∀ x ∈ u.store, ¬x.holds a

theorem ReportUnit.lacks_iff {u : ReportUnit} {a : Byte} : u.Lacks a ↔ ∀ w ∈ u.views, w.rsn ≠ some a := by
  simp [Lacks, views, ReportEntry.view, ReportEntry.holds_iff]

theorem RepMove.lacks {u u' : ReportUnit} (h : RepMove u u') {a : Byte} (hu : u.Lacks a) : u'.Lacks a := by
  cases h with
  | keep hviews =>
    rw [ReportUnit.lacks_iff] at *
    rwa [hviews]
  | append r _ _ _ _ hu' =>
    subst hu'
    refine List.forall_mem_append.2 ⟨hu, List.forall_mem_singleton.2 ?_⟩
    rintro (h | h) <;> cases h
  | owe e _ hu' =>
    subst hu'
    exact hu

theorem StoreMoves.lacks {s t : State} (h : StoreMoves s t) {a : Byte} (hs : s.rep.Lacks a) : t.rep.Lacks a := by
  refine h.keeps (P := fun t => t.rep.Lacks a) (fun s t hm hs => ?_) hs
  cases hm with
  | unit hrep => exact hrep.lacks hs
  | timer x hrep =>
    rw [hrep]
    exact hs

/-! ## The acknowledgement -/

/-- The retry timer rearmed behind an acknowledgement or an expiry (R144, R146). -/
def State.rearmed (s : State) : State := { s with rep := s.rep.rearmTimer s.link.isMute }

theorem State.rearmed_eq (s : State) : s.rearmed = { s with rep := { s.rep with
    retryTimer := if 0 < rsnHolders s.rep.store ∧ s.link.state ≠ .mute then some s.rep.retryTimeout else none } } := by
  have hmute : s.link.isMute = false ↔ s.link.state ≠ .mute := by simp [LinkUnit.isMute]
  simp only [rearmed, ReportUnit.rearmTimer, ReportUnit.holding_eq, hmute]

theorem acknowledge_some {s : State} {a : Byte} {rest : List ReportEntry} (h : afterRsn a s.rep.store = some rest)
    (w : Nat) : s.acknowledge a w =
      (State.admitOwed { s with rep := { s.rep with store := rest, window := w } }).rearmed := by
  rw [State.acknowledge, h]
  rfl

/-- With nothing owed the admission leaves the state as it stands (R139). -/
theorem admitOwed_nothing {s : State} (hengine : s.rep.engineOwed = []) (h : ∀ i, (s.loop i).alarms.owed = 0) :
    s.admitOwed = s := by
  have hnone : s.engineAdmitted = s := by
    rw [State.engineAdmitted, hengine, ReportUnit.admitEngineOwed, ← hengine]
  have hturns (l : List LoopId) : l.foldl (fun t i => admitTurn i t) s = s := by
    induction l with
    | nil => rfl
    | cons i rest ih => rw [List.foldl_cons, admitTurn_none (.inl (h i)), ih]
  rw [admitOwed_eq, hnone, admitAlarmOwed_eq, State.eachLoop, hturns]

theorem overrunBy_reportAck (s : State) : s.overrunBy reportAckKind = false := by simp [State.overrunBy]

theorem goodArrival_eq_arrive (s : State) : s.goodArrival = s.arrive reportAckKind :=
  (arrive_eq_goodArrival (overrunBy_reportAck s)).symm

/-- A REPORT_ACK whose window is 16 or less: its arrival, the acknowledgement and the transmitter's choice. -/
theorem exec_reportAck {s : State} (h : s.Receiving) (tag a : Byte) {w : Byte} (hw : w.toNat ≤ 16) :
    exec (.reportAck tag [a, w]) s = .next (s.goodArrival.acknowledge a w.toNat).transmit := by
  obtain ⟨hpower, hrxd⟩ := h
  have htaken : s.goodArrival.passAck [a, w] = s.goodArrival.acknowledge a w.toNat :=
    if_neg (not_or.2 ⟨not_not.2 rfl, Nat.not_lt.2 hw⟩)
  have hframe : s.goodFrame reportAckKind tag [a, w] = (s.goodArrival.acknowledge a w.toNat).transmit := by
    rw [State.goodFrame, if_pos rfl, ← goodArrival_eq_arrive, htaken]
  simp only [exec, execReportAck, State.whenTaking, State.whenRunning, State.takesBytes, hpower, hrxd, if_true, hframe,
    beq_self_eq_true]

end Sys2Proof.Machine

open Sys2Proof Sys2Proof.Machine

/-- Settles O29: the arrival brings no RSN into the store, so the acknowledgement finds the entries as they stood. -/
theorem acknowledgementRemovesReports : Obligations.AcknowledgementRemovesReports := by
  intro s tag a w h hw b rearmed
  have hrearmed (t : State) : t.rearmed = rearmed t := t.rearmed_eq
  have harrive : b = s.arrive reportAckKind := goodArrival_eq_arrive s
  rw [exec_reportAck h tag a hw]
  refine ⟨fun hnone => ?_, fun pre e rest hstore he hpre => ⟨?_, fun hengine howed => ?_⟩⟩
  · have hlacks : b.rep.Lacks a := harrive ▸ (StoreMoves.arrive s reportAckKind).lacks hnone
    rw [State.acknowledge, afterRsn_none hlacks]
  · have hrest : afterRsn a b.rep.store = some rest := by rw [hstore, afterRsn_split he hpre]
    rw [acknowledge_some hrest, hrearmed]
  · refine admitOwed_nothing hengine fun i => ?_
    have hrecord := (sameAlarms_arrive s reportAckKind).record i
    rw [← harrive] at hrecord
    exact (congrArg AlarmRecord.owed hrecord).trans (howed i)

end

section
/-! SUPPORT. The expiry of the retry timer: within the retry limit and past it (R144, R145). -/

namespace Sys2Proof.Machine

theorem goBack_eq (e : ReportEntry) : e.goBack = resendEntry e := rfl

theorem resendEntry_retryCount (e : ReportEntry) : (resendEntry e).retryCount = e.retryCount := by
  cases h : e.state <;> simp [resendEntry, h]

/-- The part with the store `e :: rest` gone back at an expiry: every SENT entry becomes RESEND, and the retry count of
the first rises (R144). -/
def State.goneBack (s : State) (e : ReportEntry) (rest : List ReportEntry) : State := { s with rep := { s.rep with
  store := { resendEntry e with retryCount := e.retryCount + 1 } :: rest.map resendEntry } }

/-- An expiry sends the store back, drops the first entry past the retry limit, and rearms the timer (R144, R145). -/
theorem retryExpiry_cons {s : State} {e : ReportEntry} {rest : List ReportEntry} (hstore : s.rep.store = e :: rest) :
    s.retryExpiry = (if s.rep.retryLimit < e.retryCount + 1 then (s.goneBack e rest).dropFirst
      else s.goneBack e rest).rearmed.transmit := by
  have hback : ({ s with rep := s.rep.expire } : State) = s.goneBack e rest := by
    rw [ReportUnit.expire_cons hstore, goBack_eq, resendEntry_retryCount]
    rfl
  have hover : s.rep.expire.overLimit = true ↔ s.rep.retryLimit < e.retryCount + 1 := by
    rw [show s.rep.expire = (s.goneBack e rest).rep from congrArg State.rep hback]
    exact decide_eq_true_iff
  simp only [State.retryExpiry, hback, hover, State.rearmed]

theorem dropFirst_goneBack (s : State) (e : ReportEntry) (rest : List ReportEntry) : (s.goneBack e rest).dropFirst =
    (State.lecBecomes { s with
      rep := { s.rep with store := rest.map resendEntry, droppedCount := satInc s.rep.droppedCount } }
        (min 255 (s.link.lec.toNat + 8))).admitOwed.offerEngine (.reportsDropped 1) := by
  rw [← changeLec_eq_lecBecomes _ (by omega)]
  rfl

theorem exec_retryTimerExpiry {s : State} (h : s.power = .running) :
    exec .retryTimerExpiry s = .next (if s.rep.retryTimer = none then s else s.retryExpiry) := by
  simp only [exec, execRetryTimerExpiry, State.whenRunning, h, if_true]
  cases s.rep.retryTimer <;> rfl

end Sys2Proof.Machine

open Sys2Proof Sys2Proof.Machine

/-- Settles O43: a running timer's expiry sends the store back, within the retry limit and past it. -/
theorem retryExpiryGoesBackOrDrops : Obligations.RetryExpiryGoesBackOrDrops := by
  intro s e rest hpower rearmed first removed dropped
  have hrearmed (t : State) : t.rearmed = rearmed t := t.rearmed_eq
  have hback : s.goneBack e rest = { s with rep := { s.rep with store := first :: rest.map resendEntry } } := rfl
  have hdropped : (s.goneBack e rest).dropFirst = dropped := dropFirst_goneBack s e rest
  rw [exec_retryTimerExpiry hpower]
  refine ⟨fun hstopped => ?_, fun hruns hstore hwithin => ?_, fun hruns hstore hpast => ?_⟩
  · rw [if_pos hstopped]
  · rw [if_neg hruns, retryExpiry_cons hstore, if_neg (Nat.not_lt.2 hwithin), hrearmed, hback]
  · rw [if_neg hruns, retryExpiry_cons hstore, if_pos hpast, hrearmed, hdropped]

end

section
/-! SUPPORT. What the line sees of a state: the power, the link unit and the RESET-pending condition; the operations of
the loops, the modes and the requests leave it as it is, but for an accepted RESET (R171, R191). -/

set_option Elab.async false

namespace Sys2Proof.Machine

/-- What the invariant of the link unit sees of a state. -/
def State.lineView (s : State) : Power × LinkUnit × Bool := (s.power, s.link, s.ctl.resetPending)

theorem lineView_iff {s : State} {p : Power} {l : LinkUnit} {b : Bool} :
    s.lineView = (p, l, b) ↔ s.power = p ∧ s.link = l ∧ s.ctl.resetPending = b := by
  simp [State.lineView]

theorem lineView_of_only {s t : State} (h : ∃ u ls, t = { s with rep := u, loops := ls }) :
    t.lineView = s.lineView := by
  obtain ⟨u, ls, rfl⟩ := h
  rfl

/-- What is done loop by loop keeps what it keeps at every loop. -/
theorem eachLoop_keeps {P : State → Prop} {f : LoopId → State → State} (hf : ∀ i t, P t → P (f i t))
    {s : State} (h : P s) : P (s.eachLoop f) :=
  List.foldlRecOn allLoops (motive := P) (fun t i => f i t) h fun t ht i _ => hf i t ht

theorem lineView_eachLoop {f : LoopId → State → State} (hf : ∀ i t, (f i t).lineView = t.lineView) (s : State) :
    (s.eachLoop f).lineView = s.lineView :=
  eachLoop_keeps (P := fun t => t.lineView = s.lineView) (fun i t ht => (hf i t).trans ht) rfl

theorem lineView_eachNamed {f : LoopId → State → State} (hf : ∀ i t, (f i t).lineView = t.lineView) (m : LoopMask)
    (s : State) : (s.eachNamed m f).lineView = s.lineView :=
  lineView_eachLoop (fun i t => by
    split
    · exact hf i t
    · rfl) s

/-! ## The loop table, reports and alarms -/

@[simp] theorem lineView_modLoop (s : State) (i : LoopId) (f : LoopEntry → LoopEntry) :
    (s.modLoop i f).lineView = s.lineView := rfl

@[simp] theorem lineView_refreshAlert (s : State) : s.refreshAlert.lineView = s.lineView := rfl

@[simp] theorem lineView_offerEngine (s : State) (e : EngineEvent) : (s.offerEngine e).lineView = s.lineView := rfl

@[simp] theorem lineView_endInstance (s : State) (i : LoopId) : (s.endInstance i).lineView = s.lineView := rfl

@[simp] theorem lineView_dropRunning (s : State) : s.dropRunning.lineView = s.lineView := rfl

@[simp] theorem lineView_safeOutput (s : State) (i : LoopId) : (s.safeOutput i).lineView = s.lineView :=
  lineView_of_only (safeOutput_only s i)

@[simp] theorem lineView_produceOutput (s : State) (r : OutputReport) : (s.produceOutput r).lineView = s.lineView :=
  lineView_of_only (produceOutput_only s r)

@[simp] theorem lineView_enterHeld (s : State) (i : LoopId) (f : LoopEntry → LoopEntry) :
    (s.enterHeld i f).lineView = s.lineView := lineView_of_only (enterHeld_only s i f)

@[simp] theorem lineView_handAlarms (s : State) (i : LoopId) (f : FlagSet) :
    (s.handAlarms i f).lineView = s.lineView := by
  obtain ⟨u, ls, a, h⟩ := handAlarms_only s i f
  rw [h]
  rfl

@[simp] theorem lineView_settleChoice (s : State) : s.settleChoice.lineView = s.lineView := by
  obtain ⟨u, ls, h⟩ := settleChoice_only s
  rw [h]
  rfl

@[simp] theorem lineView_faultLoop (s : State) (i : LoopId) (f : FlagSet) :
    (s.faultLoop i f).lineView = s.lineView := by
  simp [State.faultLoop]

@[simp] theorem lineView_completionOutput (s : State) (i : LoopId) (d : Definition) (x : Instance) (m : Marks) :
    (s.completionOutput i d x m).lineView = s.lineView := by
  unfold State.completionOutput
  dsimp only
  split <;> simp

@[simp] theorem lineView_claimSafe (s : State) (c : SafeCause) : (s.claimSafe c).lineView = s.lineView := by
  have hpending := claimSafe_resetPending s c
  obtain ⟨k, ls, u, cu, h⟩ := claimSafe_only s c
  rw [h] at hpending ⊢
  exact congrArg (fun b => (s.power, s.link, b)) hpending

theorem lineView_enterRun (s : State) : s.enterRun.lineView = s.lineView := by
  rw [State.enterRun, eachLoop_modLoop]
  rfl

theorem lineView_remask (s : State) (i : LoopId) (m : FlagSet) : (s.remask i m).lineView = s.lineView :=
  (lineView_of_only (raiseAlarm_only _ i _)).trans (lineView_modLoop s i _)

theorem lineView_admitOwed (s : State) : s.admitOwed.lineView = s.lineView := by
  have hturn (i : LoopId) (t : State) : (admitTurn i t).lineView = t.lineView := by
    unfold admitTurn
    split
    · exact lineView_of_only (offerAlarm_only t i _)
    · rfl
  rw [admitOwed_eq, admitAlarmOwed_eq, lineView_eachLoop hturn]
  rfl

/-! ## Releases and stage completions -/

@[simp] theorem lineView_missRelease (s : State) (i : LoopId) (d : Definition) :
    (s.missRelease i d).lineView = s.lineView := by
  unfold State.missRelease
  dsimp only
  split <;> simp

@[simp] theorem lineView_takeRelease (s : State) (i : LoopId) (d : Definition) (stale : Bool) :
    (s.takeRelease i d stale).lineView = s.lineView := by
  unfold State.takeRelease
  dsimp only
  split
  · rw [lineView_handAlarms]
    rfl
  · rfl

@[simp] theorem lineView_releaseSteps (s : State) (i : LoopId) (d : Definition) :
    (s.releaseSteps i d).lineView = s.lineView := by
  unfold State.releaseSteps
  split
  · exact lineView_missRelease s i d
  · split
    · split
      · exact lineView_takeRelease s i d true
      · simp [State.skipRelease]
      · exact lineView_faultLoop s i _
    · exact lineView_takeRelease s i d false

theorem lineView_tickEvent (s : State) : s.tickEvent.lineView = s.lineView := by
  rw [State.tickEvent, lineView_settleChoice]
  rfl

theorem lineView_stageEnded (s : State) (x : Instance) (d : Definition) (st : StageDesc) :
    (s.stageEnded x d st).lineView = s.lineView := by
  unfold State.stageEnded
  dsimp only
  split
  · simp
  · split
    · simp [State.complete]
    · rfl

/-! ## Requests -/

theorem lineView_maskRequest {s : State} (p : List Byte) (check : LoopEntry → Option Result)
    {act : LoopMask → State → State} (hact : ∀ m, (act m s).lineView = s.lineView) :
    (s.maskRequest p check act).1.lineView = s.lineView := by
  rcases maskRequest_cases s p check act with h | ⟨h, -⟩ <;> rw [h]
  exact hact _

theorem lineView_reqArmLoop (p : List Byte) (s : State) : (reqArmLoop p s).1.lineView = s.lineView :=
  lineView_maskRequest p armCheck fun m => lineView_eachNamed (fun i t => lineView_modLoop t i _) m s

theorem lineView_reqUnholdLoop (p : List Byte) (s : State) : (reqUnholdLoop p s).1.lineView = s.lineView :=
  lineView_maskRequest p unholdCheck fun m => lineView_eachNamed (fun i t => lineView_modLoop t i _) m s

theorem lineView_holdLoop (s : State) (i : LoopId) : (s.holdLoop i).lineView = s.lineView := by
  unfold State.holdLoop
  split <;> simp

theorem lineView_reqHoldLoop (p : List Byte) (s : State) : (reqHoldLoop p s).1.lineView = s.lineView :=
  lineView_maskRequest p holdCheck fun m =>
    (lineView_settleChoice _).trans (lineView_eachNamed (fun i t => lineView_holdLoop t i) m s)

theorem lineView_clearLoop (s : State) (i : LoopId) : (s.clearLoop i).lineView = s.lineView := by
  unfold State.clearLoop
  split <;> rfl

theorem lineView_reqClearLoop (p : List Byte) (s : State) : (reqClearLoop p s).1.lineView = s.lineView :=
  lineView_maskRequest p (fun _ => none) fun m =>
    ((lineView_settleChoice _).trans (lineView_refreshAlert _)).trans
      (lineView_eachNamed (fun i t => lineView_clearLoop t i) m s)

theorem lineView_reqDefineLoop (p : List Byte) (s : State) : (reqDefineLoop p s).1.lineView = s.lineView := by
  unfold reqDefineLoop
  split
  · rfl
  · split
    · split <;> rfl
    · rfl

theorem lineView_reqPresetLoop (p : List Byte) (s : State) : (reqPresetLoop p s).1.lineView = s.lineView := by
  rcases presetLoop_cases p s with h | ⟨i, v, ws, h⟩ <;> rw [h]
  rfl

theorem lineView_reqLoadCoef (p : List Byte) (s : State) : (reqLoadCoef p s).1.lineView = s.lineView := by
  rcases loadCoef_cases p s with h | ⟨i, k, c, h⟩ <;> rw [h]
  rfl

theorem lineView_commit (s : State) (m : LoopMask) (f : LoopEntry → LoopEntry) :
    (s.commit m f).1.lineView = s.lineView := by
  unfold State.commit
  split
  · rfl
  · split
    · rfl
    · exact lineView_eachNamed (fun i t => lineView_modLoop t i f) m s

theorem lineView_reqCommitCoef (p : List Byte) (s : State) : (reqCommitCoef p s).1.lineView = s.lineView := by
  unfold reqCommitCoef
  split
  · rfl
  · split
    · exact lineView_commit s _ _
    · exact lineView_commit s _ _
    · rfl

theorem lineView_writeSlots (s : State) (now : Tick) (pairs : List (SlotId × Count)) :
    (s.writeSlots now pairs).lineView = s.lineView := by
  rw [writeSlots_eq]
  simp only [State.lineView]

theorem lineView_reqWriteSamples (p : List Byte) (s : State) : (reqWriteSamples p s).1.lineView = s.lineView := by
  unfold reqWriteSamples
  dsimp only
  split
  · rfl
  · split
    · rfl
    · split
      · rfl
      · next pairs _ => exact lineView_writeSlots s _ pairs

theorem lineView_reqConfigure (p : List Byte) (s : State) : (reqConfigure p s).1.lineView = s.lineView := by
  unfold reqConfigure
  dsimp only
  split
  · rfl
  · split
    · rfl
    · split <;> rfl

theorem lineView_reqEnterSafe (p : List Byte) (s : State) : (reqEnterSafe p s).1.lineView = s.lineView := by
  unfold reqEnterSafe
  split
  · rfl
  · exact lineView_claimSafe s .host

theorem lineView_reqResume (p : List Byte) (s : State) : (reqResume p s).1.lineView = s.lineView := by
  unfold reqResume
  split
  · rfl
  · split
    · rfl
    · split
      · rfl
      · exact lineView_enterRun s

theorem lineView_reqClearCause (p : List Byte) (s : State) : (reqClearCause p s).1.lineView = s.lineView := by
  unfold reqClearCause
  split <;> rfl

theorem lineView_reqClearAlarms (p : List Byte) (s : State) : (reqClearAlarms p s).1.lineView = s.lineView := by
  unfold reqClearAlarms
  split
  · rfl
  · split
    · rfl
    · split
      · rfl
      · exact (lineView_refreshAlert _).trans (lineView_eachNamed (fun i t => lineView_modLoop t i _) _ s)

theorem lineView_reqMaskAlarms (p : List Byte) (s : State) : (reqMaskAlarms p s).1.lineView = s.lineView := by
  unfold reqMaskAlarms
  split
  · rfl
  · split
    · rfl
    · split
      · rfl
      · split
        · rfl
        · exact (lineView_refreshAlert _).trans (lineView_eachNamed (fun i t => lineView_remask t i _) _ s)

/-- A RESET that passes its checks stops the dispatcher (R171, R191). -/
theorem lineView_reqReset (p : List Byte) (s : State) :
    (reqReset p s).1.lineView = (s.power, s.link, s.ctl.resetPending || p.isEmpty) := by
  cases p with
  | nil => simp [reqReset, accept, State.lineView]
  | cons b p => simp [reqReset, refuse, State.lineView]

/-- A request carried out leaves the link unit, and of all requests a RESET that passes its checks alone stops the
dispatcher (R171, R191). -/
theorem lineView_judge (f : Frame) (s : State) :
    (judge f s).1.lineView = (s.power, s.link, s.ctl.resetPending || answersReset f) := by
  obtain ⟨h1, h2, h3, h4, h5, h6, h7⟩ := reqReads_only f.payload s
  by_cases hreset : f.kind = 0x07
  · have hj : judge f s = reqReset f.payload s := by simp [judge, carryOut, hreset]
    have hans : answersReset f = f.payload.isEmpty := by simp [answersReset, hreset]
    rw [hj, lineView_reqReset, hans]
  · have hans : answersReset f = false := Bool.and_eq_false_iff.2 (.inl (beq_eq_false_iff_ne.2 hreset))
    rw [hans, Bool.or_false]
    change _ = s.lineView
    unfold judge carryOut
    split
    · next r hr =>
      split at hr <;> cases hr
      · rw [h1]
      · rw [h2]
      · exact lineView_reqConfigure _ s
      · rw [h3]
      · exact lineView_reqEnterSafe _ s
      · exact lineView_reqResume _ s
      · next hk => exact absurd (BitVec.eq_of_toNat_eq hk) hreset
      · exact lineView_reqClearCause _ s
      · exact lineView_reqDefineLoop _ s
      · exact lineView_reqArmLoop _ s
      · exact lineView_reqHoldLoop _ s
      · exact lineView_reqUnholdLoop _ s
      · exact lineView_reqClearLoop _ s
      · rw [h4]
      · exact lineView_reqPresetLoop _ s
      · exact lineView_reqLoadCoef _ s
      · exact lineView_reqCommitCoef _ s
      · rw [h5]
      · exact lineView_reqWriteSamples _ s
      · rw [h6]
      · rw [h7]
      · exact lineView_reqClearAlarms _ s
      · exact lineView_reqMaskAlarms _ s
    · rfl

end Sys2Proof.Machine
end

section
/-! SUPPORT. Every event keeps the link unit within its rules: the link state, the slots, the response queue, the
partial frame and the gap timer (R154, R157, R159 to R164, R171, R191). -/

set_option Elab.async false

namespace Sys2Proof.Machine

/-- The link state is one R164 allows at the LEC. -/
def LinkUnit.Judged (l : LinkUnit) : Prop :=
  match l.state with
  | .ok => l.lec.toNat ≤ 63
  | .warn => 64 ≤ l.lec.toNat ∧ l.lec.toNat ≤ 127
  | .mute => 64 ≤ l.lec.toNat

/-- The partial frame, the gap timer and RXD agree (R153, R154, R157). -/
structure LinkUnit.RxFits (l : LinkUnit) : Prop where
  partialFrame : l.rx.Fits
  huntStopped : l.rx = .hunt ↔ l.gapTimer = .stopped
  runningTakes : l.gapTimer = .running → l.rxd = .taking
  heldUndecided : l.gapTimer = .held → l.rxd = .undecided

/-- The invariant of the link unit in a part that runs, but for what holds once the transmitter has chosen and the
dispatcher has taken the slots it can (R161, R171). -/
structure LineBase (s : State) : Prop where
  power : s.power = .running
  slots : s.link.slots.length ≤ 4
  responses : s.link.responses.length ≤ 4
  resetPending : s.ctl.resetPending = s.link.resetAnswered
  judged : s.link.Judged
  rx : s.link.RxFits

/-- An idle transmitter has left no response waiting (R161). -/
def LinkUnit.Chosen (l : LinkUnit) : Prop := l.tx = .idle → l.responses = []

/-- A request waits for a reason: the response queue is full, or a RESET has stopped the dispatcher (R159, R171). -/
def State.Dispatched (s : State) : Prop :=
  s.link.slots ≠ [] → s.link.responses.length = 4 ∨ s.ctl.resetPending = true

/-- The invariant of the link unit in a part that runs. -/
structure LineRuns (s : State) : Prop where
  base : LineBase s
  chosen : s.link.Chosen
  dispatched : s.Dispatched

theorem LineRuns.linkInv {s : State} (h : LineRuns s) : LinkInv s := by
  obtain ⟨⟨hpower, hslots, hresponses, hpending, hjudged, hrx⟩, hchosen, hdispatched⟩ := h
  exact ⟨hslots, hresponses, hdispatched, hchosen, hpending, hjudged, hrx.partialFrame, hrx.huntStopped,
    hrx.runningTakes, hrx.heldUndecided, fun hreset => by rw [hpower] at hreset; cases hreset⟩

theorem LinkInv.runs {s : State} (h : LinkInv s) (hp : s.power = .running) : LineRuns s :=
  ⟨⟨hp, h.slots, h.responses, h.resetPending, h.judged,
    h.partialFrame, h.huntStopped, h.runningTakes, h.heldUndecided⟩, h.idleEmpty, h.taken⟩

/-- A receiver in HUNT with a stopped gap timer agrees with every level of RXD (R154). -/
theorem LinkUnit.rxFits_hunt {l : LinkUnit} (hrx : l.rx = .hunt) (hgap : l.gapTimer = .stopped) : l.RxFits :=
  ⟨by rw [hrx]; trivial, by simp [hrx, hgap], by simp [hgap], by simp [hgap]⟩

/-- The receiver's agreement is a matter of the receiver, the gap timer and RXD alone. -/
theorem LinkUnit.RxFits.of_eq {l l' : LinkUnit} (h : l.RxFits) (hrx : l'.rx = l.rx) (hgap : l'.gapTimer = l.gapTimer)
    (hrxd : l'.rxd = l.rxd) : l'.RxFits := by
  obtain ⟨hpartial, hhunt, hruns, hheld⟩ := h
  rw [← hrx] at hpartial hhunt
  rw [← hgap] at hhunt hruns hheld
  rw [← hrxd] at hruns hheld
  exact ⟨hpartial, hhunt, hruns, hheld⟩

/-- The link state judged from any state before agrees with the new LEC (R164). -/
theorem judged_judgeLink {l : LinkUnit} {before : LinkState} (h : l.state = judgeLink before l.lec) : l.Judged := by
  have hjudge : judgeLink before l.lec = .ok ∧ l.lec.toNat ≤ 63
      ∨ judgeLink before l.lec = .warn ∧ 64 ≤ l.lec.toNat ∧ l.lec.toNat ≤ 127
      ∨ judgeLink before l.lec = .mute ∧ 64 ≤ l.lec.toNat := by
    unfold judgeLink
    split
    · split
      · exact .inl ⟨rfl, by assumption⟩
      · exact .inr (.inr ⟨rfl, by omega⟩)
    · split
      · exact .inl ⟨rfl, by assumption⟩
      · split
        · exact .inr (.inl ⟨rfl, by omega, by assumption⟩)
        · exact .inr (.inr ⟨rfl, by omega⟩)
  unfold LinkUnit.Judged
  rcases hjudge with ⟨hstate, hlec⟩ | ⟨hstate, hlec⟩ | ⟨hstate, hlec⟩ <;> rw [h, hstate] <;> exact hlec

/-! ## The transmitter (R161) -/

/-- A report taken by an idle transmitter answers no RESET (R142). -/
theorem startReport_resetAnswered {s : State} (h : s.link.tx = .idle) :
    s.startReport.link.resetAnswered = s.link.resetAnswered := by
  unfold State.startReport
  split
  · rfl
  · simp [LinkUnit.resetAnswered, h]

theorem startReport_responses (s : State) : s.startReport.link.responses = s.link.responses := by
  obtain ⟨u, tx, h⟩ := startReport_only s
  rw [h]

/-- The response taken by the transmitter stays in sight until its frame has ended (R160, R191). -/
theorem transmit_resetAnswered (s : State) : s.transmit.link.resetAnswered = s.link.resetAnswered := by
  unfold State.transmit
  split
  · rfl
  · next r rest htx hresponses => simp [State.startResponse, LinkUnit.resetAnswered, htx, hresponses]
  · next htx _ => exact startReport_resetAnswered htx

/-- A transmitter that has chosen and is idle found no response (R161). -/
theorem transmit_chosen (s : State) : s.transmit.link.Chosen := by
  unfold State.transmit
  split
  · next htx => exact fun hidle => by rw [hidle] at htx; cases htx
  · exact nofun
  · next hresponses => exact fun _ => (startReport_responses s).trans hresponses

/-- Where no response waits for an idle transmitter, its choice leaves the queue (R161). -/
theorem transmit_responses {s : State} (h : s.link.Chosen) : s.transmit.link.responses = s.link.responses := by
  unfold State.transmit
  split
  · rfl
  · next htx hresponses =>
    rw [h htx] at hresponses
    cases hresponses
  · exact startReport_responses s

theorem transmit_responses_length (s : State) : s.transmit.link.responses.length ≤ s.link.responses.length := by
  unfold State.transmit
  split
  · exact le_rfl
  · next hresponses =>
    rw [hresponses]
    exact Nat.le_succ _
  · rw [startReport_responses]

/-! ## The dispatcher's room (R171) -/

theorem dispatcherFree_iff {s : State} :
    s.dispatcherFree = true ↔ s.link.responses.length < 4 ∧ s.ctl.resetPending = false := by
  rw [State.dispatcherFree, Bool.and_eq_true, decide_eq_true_iff, Bool.not_eq_true']
  rfl

theorem respond_resetAnswered (s : State) (f : Frame) (p : List Byte) :
    (s.respond f p).link.resetAnswered = (s.link.resetAnswered || answersReset f) := by
  simp [State.respond, LinkUnit.resetAnswered, Bool.or_assoc]

theorem transmitAfterResponse_slots (s : State) : s.transmitAfterResponse.link.slots = s.link.slots := by
  obtain ⟨u, q, tx, n, h⟩ := transmitAfterResponse_only s
  rw [h]

theorem serve_eq (s : State) (f : Frame) :
    s.serve f = ((judge f s).1.respond f (judge f s).2).transmitAfterResponse := rfl

/-- A request taken leaves the slots behind it. -/
theorem serve_slots (s : State) (f : Frame) : (s.serve f).link.slots = s.link.slots := by
  obtain ⟨-, hlink, -⟩ := lineView_iff.1 (lineView_judge f s)
  rw [serve_eq, transmitAfterResponse_slots, State.respond, hlink]

/-! ## What every event needs -/

namespace LineBase

variable {s t : State}

/-- What the line does not see. -/
theorem of_view (h : LineBase s) (hv : t.lineView = s.lineView) : LineBase t := by
  obtain ⟨hpower, hlink, hpending⟩ := lineView_iff.1 hv
  have hanswered : t.ctl.resetPending = t.link.resetAnswered := by
    rw [hpending, hlink]
    exact h.resetPending
  exact ⟨hpower.trans h.power, hlink ▸ h.slots, hlink ▸ h.responses, hanswered, hlink ▸ h.judged, hlink ▸ h.rx⟩

/-- A change of the transmitter and the response queue that keeps the response to a RESET in sight. -/
theorem queued (h : LineBase s) {u : ReportUnit} {q : List Response} {tx : Transmitter} {n : Nat}
    (hq : q.length ≤ 4)
    (hanswered : LinkUnit.resetAnswered { s.link with responses := q, tx := tx } = s.link.resetAnswered) :
    LineBase { s with rep := u, choices := n, link := { s.link with responses := q, tx := tx } } :=
  ⟨h.power, h.slots, hq, h.resetPending.trans hanswered.symm, h.judged, h.rx.of_eq rfl rfl rfl⟩

theorem transmit (h : LineBase s) : LineBase s.transmit := by
  have hanswered := transmit_resetAnswered s
  have hlength := transmit_responses_length s
  obtain ⟨u, q, tx, he⟩ := transmit_only s
  rw [he] at hanswered hlength ⊢
  exact h.queued (n := s.choices) (hlength.trans h.responses) hanswered

theorem startReport (h : LineBase s) (hidle : s.link.tx = .idle) : LineBase s.startReport := by
  have hanswered := startReport_resetAnswered hidle
  obtain ⟨u, tx, he⟩ := startReport_only s
  rw [he] at hanswered ⊢
  exact h.queued (n := s.choices) h.responses hanswered

/-- Whichever of a response and a report the transmitter takes first, no response is left to an idle transmitter
(R161; log entry 2). -/
theorem transmitAfterResponse (h : LineBase s) :
    LineBase s.transmitAfterResponse ∧ s.transmitAfterResponse.link.Chosen := by
  have hcount : LineBase { s with choices := s.choices + 1 } := h.of_view rfl
  unfold State.transmitAfterResponse
  split
  · next hcontested =>
    simp only [State.contested, Bool.and_eq_true, beq_iff_eq] at hcontested
    obtain ⟨⟨hidle, -⟩, hoffered⟩ := hcontested
    dsimp only
    split
    · refine ⟨hcount.startReport hidle, ?_⟩
      obtain ⟨⟨e, u⟩, hsome⟩ := Option.isSome_iff_exists.1 hoffered
      have hsome' : State.reportOffered { s with choices := s.choices + 1 } = some (e, u) := hsome
      rw [State.startReport, hsome']
      exact nofun
    · exact ⟨hcount.transmit, transmit_chosen _⟩
  · exact ⟨h.transmit, transmit_chosen s⟩

/-! ## The dispatcher (R159, R171) -/

/-- Another content of the slots. -/
theorem slotted (h : LineBase s) {q : List Frame} (hq : q.length ≤ 4) :
    LineBase { s with link := { s.link with slots := q } } :=
  ⟨h.power, hq, h.responses, h.resetPending, h.judged, h.rx.of_eq rfl rfl rfl⟩

/-- The response to a request joins the queue; where it answers a RESET, the dispatcher is stopped (R160, R171,
R191). -/
theorem respond (h : LineBase s) (hroom : s.link.responses.length < 4) {f : Frame}
    (hv : t.lineView = (s.power, s.link, s.ctl.resetPending || answersReset f)) (p : List Byte) :
    LineBase (t.respond f p) := by
  obtain ⟨hpower, hlink, hpending⟩ := lineView_iff.1 hv
  have hlength : (t.respond f p).link.responses.length = s.link.responses.length + 1 := by
    simp [State.respond, hlink]
  have hslots : t.link.slots.length ≤ 4 := hlink ▸ h.slots
  have hjudged : t.link.Judged := hlink ▸ h.judged
  have hrx : t.link.RxFits := hlink ▸ h.rx
  refine ⟨hpower.trans h.power, hslots, by omega, ?_, hjudged, hrx.of_eq rfl rfl rfl⟩
  rw [respond_resetAnswered, hlink, ← h.resetPending]
  exact hpending

/-- A request taken by a free dispatcher: its response joins the queue, and a RESET stops the dispatcher (R171,
R191). -/
theorem serve (h : LineBase s) (hfree : s.dispatcherFree = true) (f : Frame) :
    LineBase (s.serve f) ∧ (s.serve f).link.Chosen := by
  obtain ⟨hroom, -⟩ := dispatcherFree_iff.1 hfree
  rw [serve_eq]
  exact (h.respond hroom (lineView_judge f s) _).transmitAfterResponse

/-- The dispatcher leaves a slot filled only where it is not free (R171). -/
theorem dispatchUpTo (n : Nat) {s : State} (h : LineBase s) (hchosen : s.link.Chosen) (hn : s.link.slots.length ≤ n) :
    LineRuns (s.dispatchUpTo n) := by
  induction n generalizing s with
  | zero => exact ⟨h, hchosen, fun hne => absurd (List.length_eq_zero_iff.1 (Nat.le_zero.1 hn)) hne⟩
  | succ n ih =>
    unfold State.dispatchUpTo
    split
    · next hnil => exact ⟨h, hchosen, fun hne => absurd hnil hne⟩
    · next f rest hslots =>
      rw [hslots] at hn
      split
      · next hfree =>
        have hlength : rest.length ≤ 4 := (Nat.le_succ _).trans (hslots ▸ h.slots : (f :: rest).length ≤ 4)
        have htaken : LineBase { s with link := { s.link with slots := rest } } := h.slotted hlength
        obtain ⟨hserved, hchosen'⟩ := htaken.serve hfree f
        refine ih hserved hchosen' ?_
        rw [serve_slots]
        exact Nat.le_of_succ_le_succ hn
      · next hbusy =>
        refine ⟨h, hchosen, fun _ => or_iff_not_imp_right.2 fun hpending => ?_⟩
        refine Nat.le_antisymm h.responses (Nat.not_lt.1 fun hroom => hbusy ?_)
        exact dispatcherFree_iff.2 ⟨hroom, Bool.eq_false_iff.2 hpending⟩

theorem dispatch (h : LineBase s) (hchosen : s.link.Chosen) : LineRuns s.dispatch := h.dispatchUpTo _ hchosen le_rfl

end LineBase

/-! ## The events of a running part -/

namespace LineRuns

variable {s t : State}

/-- What the line does not see. -/
theorem of_view (h : LineRuns s) (hv : t.lineView = s.lineView) : LineRuns t := by
  obtain ⟨-, hlink, hpending⟩ := lineView_iff.1 hv
  refine ⟨h.base.of_view hv, ?_, ?_⟩
  · rw [hlink]
    exact h.chosen
  · rw [State.Dispatched, hlink, hpending]
    exact h.dispatched

theorem transmit (h : LineRuns s) : LineRuns s.transmit := by
  have hresponses := transmit_responses h.chosen
  refine ⟨h.base.transmit, transmit_chosen s, ?_⟩
  obtain ⟨u, q, tx, he⟩ := transmit_only s
  rw [he] at hresponses ⊢
  subst hresponses
  exact h.dispatched

theorem reported (h : LineRuns s) (u : ReportUnit) : LineRuns { s with rep := u } := h.of_view rfl

/-- The receiver, the gap timer and RXD changed in agreement, with the counters and the start-up hold (R154, R157,
R194). -/
theorem line (h : LineRuns s) {rx : Receiver} {gap : GapTimer} {rxd : RxdState} {k : LinkCounters} {hold : Bool}
    (hfits : LinkUnit.RxFits { s.link with rx := rx, gapTimer := gap, rxd := rxd }) :
    LineRuns { s with
      link := { s.link with rx := rx, gapTimer := gap, rxd := rxd, counters := k, startUpHold := hold } } :=
  ⟨⟨h.base.power, h.base.slots, h.base.responses, h.base.resetPending, h.base.judged, hfits.of_eq rfl rfl rfl⟩,
    h.chosen, h.dispatched⟩

theorem counted (h : LineRuns s) (f : LinkCounters → LinkCounters) : LineRuns (s.modCounters f) :=
  h.line (rx := s.link.rx) (gap := s.link.gapTimer) (rxd := s.link.rxd) h.base.rx

theorem toHunt (h : LineRuns s) : LineRuns s.toHunt :=
  h.line (k := s.link.counters) (hold := s.link.startUpHold) (LinkUnit.rxFits_hunt rfl rfl)

theorem holdEnded (h : LineRuns s) : LineRuns { s with link := { s.link with startUpHold := false } } :=
  h.line (k := s.link.counters) (hold := false) h.base.rx

/-- The link is judged anew at every change of the LEC (R164). -/
theorem changeLec (h : LineRuns s) (lec : BitVec 8) : LineRuns (s.changeLec lec) := by
  have hpending := changeLec_resetPending s lec
  obtain ⟨k, ls, u, cu, he⟩ := changeLec_only s lec
  rw [he] at hpending ⊢
  have hkept : k.resetPending = s.ctl.resetPending := hpending
  exact ⟨⟨h.base.power, h.base.slots, h.base.responses, hkept.trans h.base.resetPending, judged_judgeLink rfl,
    h.base.rx.of_eq rfl rfl rfl⟩, h.chosen, fun hne => (h.dispatched hne).imp_right hkept.trans⟩

/-- A line error takes the receiver to HUNT, whatever stood in it (R155 to R157). -/
theorem lineError (h : LineRuns s.toHunt) (f : LinkCounters → LinkCounters) (n : Nat) :
    LineRuns ((s.toHunt.modCounters f).raiseLec n).transmit :=
  ((h.counted f).changeLec _).transmit

theorem framingErrorEvent (h : LineRuns s) : LineRuns s.framingErrorEvent := by
  unfold State.framingErrorEvent
  split
  · exact h
  · exact lineError h.toHunt _ 4

/-! ## Releases and stage completions -/

theorem releaseEvent (h : LineRuns s) (i : LoopId) : LineRuns (s.releaseEvent i) := by
  unfold State.releaseEvent
  split
  · exact h
  · exact (h.of_view (by simp)).transmit

theorem tick (h : LineRuns s) : LineRuns s.takeDueReleases.tickEvent := by
  have hdue : LineRuns s.takeDueReleases := eachLoop_keeps (fun i t ht => ht.releaseEvent i) h
  exact hdue.of_view (lineView_tickEvent _)

theorem stageCompletion (h : LineRuns s) : LineRuns s.stageCompletion := by
  have hsettled (t : State) (ht : t.lineView = s.lineView) : LineRuns t.settleChoice.transmit :=
    (h.of_view ((lineView_settleChoice t).trans ht)).transmit
  unfold State.stageCompletion
  split
  · next x _ _ =>
    refine hsettled _ ?_
    split
    · rfl
    · split
      · rfl
      · next d st _ => exact lineView_stageEnded s x d st
  · exact h

/-! ## Frames (R158, R159) -/

/-- A frame brought to the slots, and every slot taken that the dispatcher can take (R159, R171). -/
theorem submit (h : LineRuns s) (kind tag : Byte) (p : List Byte) : LineRuns (s.submit kind tag p) := by
  unfold State.submit State.placeInSlot
  split
  · next hroom =>
    refine (h.base.slotted ?_).dispatch h.chosen
    rw [List.length_append]
    exact hroom
  · exact (h.counted _).base.dispatch h.chosen

theorem arrive (h : LineRuns s) (kind : Byte) : LineRuns (s.arrive kind) := by
  have hrestarted : LineRuns s.toHunt.restartSupervision := h.toHunt.of_view rfl
  unfold State.arrive
  dsimp only
  split
  · exact hrestarted.holdEnded
  · exact hrestarted.holdEnded.changeLec _

theorem acknowledge (h : LineRuns s) (a : Byte) (w : Nat) : LineRuns (s.acknowledge a w) := by
  unfold State.acknowledge
  split
  · exact h.of_view rfl
  · next rest _ =>
    have hadmitted := h.of_view (lineView_admitOwed { s with rep := { s.rep with store := rest, window := w } })
    exact LineRuns.reported hadmitted _

theorem passAck (h : LineRuns s) (p : List Byte) : LineRuns (s.passAck p) := by
  unfold State.passAck
  split
  · exact h.counted _
  · exact h.acknowledge _ _

theorem goodFrame (h : LineRuns s) (kind tag : Byte) (p : List Byte) : LineRuns (s.goodFrame kind tag p) := by
  unfold State.goodFrame
  split
  · exact ((h.arrive kind).passAck p).transmit
  · exact ((h.arrive kind).submit kind tag p).transmit

/-! ## Expiry (R144, R145) -/

theorem dropFirst (h : LineRuns s) : LineRuns s.dropFirst := by
  have hdropped := h.reported { s.rep with store := s.rep.store.tail, droppedCount := satInc s.rep.droppedCount }
  exact (hdropped.changeLec _).of_view ((lineView_offerEngine _ _).trans (lineView_admitOwed _))

theorem retryExpiry (h : LineRuns s) : LineRuns s.retryExpiry := by
  have hexpired := h.reported s.rep.expire
  unfold State.retryExpiry
  dsimp only
  split
  · exact (hexpired.dropFirst.reported _).transmit
  · exact (hexpired.reported _).transmit

/-! ## Bytes (R154) -/

/-- A partial frame within its bounds, with the gap timer running while RXD brings bytes (R154, R157). -/
theorem receiving (h : LineRuns s) (htakes : s.link.rxd = .taking) {rx : Receiver} (hne : rx ≠ .hunt)
    (hfits : rx.Fits) : LineRuns (s.receiving rx) :=
  h.line (rx := rx) (gap := .running) (rxd := s.link.rxd) (k := s.link.counters) (hold := s.link.startUpHold)
    ⟨hfits, iff_of_false hne nofun, fun _ => htakes, nofun⟩

theorem lengthByte (h : LineRuns s) (htakes : s.link.rxd = .taking) (kind tag len : Byte) :
    LineRuns (s.lengthByte kind tag len) := by
  unfold State.lengthByte
  split
  · exact lineError h.toHunt _ 8
  · next hlen =>
    split
    · exact h.receiving htakes nofun (Nat.zero_le _)
    · next hne =>
      have hpos : 0 < len.toNat := Nat.pos_of_ne_zero fun h0 => hne (BitVec.eq_of_toNat_eq h0)
      exact h.receiving htakes nofun ⟨hpos, Nat.not_lt.1 hlen⟩

theorem frameEnded (h : LineRuns s) (kind tag : Byte) (p : List Byte) (high low : Byte) :
    LineRuns (s.frameEnded kind tag p high low) := by
  unfold State.frameEnded
  split
  · exact h.goodFrame kind tag p
  · exact lineError h.toHunt _ 8

theorem receiveByte (h : LineRuns s) (htakes : s.link.rxd = .taking) (b : Byte) : LineRuns (s.receiveByte b) := by
  have hfits := h.base.rx.partialFrame
  unfold State.receiveByte
  split
  · split
    · exact h.receiving htakes nofun (Nat.zero_le _)
    · exact h
  · exact h.receiving htakes nofun (by decide : 1 ≤ 2)
  · exact h.receiving htakes nofun (by decide : 2 ≤ 2)
  · exact h.lengthByte htakes _ _ b
  · next len payload hrx =>
    rw [hrx] at hfits
    obtain ⟨hshort, hlen⟩ := hfits
    dsimp only
    split
    · next hmore => exact h.receiving htakes nofun ⟨hmore, hlen⟩
    · refine h.receiving htakes nofun (?_ : (payload ++ [b]).length ≤ 240)
      rw [List.length_append]
      exact hshort.trans_le hlen
  · next payload hrx =>
    rw [hrx] at hfits
    exact h.receiving htakes nofun hfits
  · exact h.frameEnded _ _ _ _ b

end LineRuns

/-! ## Resets, the break and the end of a frame (R161, R167, R168, R191 to R193) -/

theorem linkInv_fullReset (s : State) (c : ResetCause) (flag : Bool) (straps : Straps) :
    LinkInv (s.fullReset c flag straps) where
  slots := Nat.zero_le 4
  responses := Nat.zero_le 4
  taken := fun hne => absurd rfl hne
  idleEmpty := fun _ => rfl
  resetPending := rfl
  judged := Nat.zero_le 63
  partialFrame := trivial
  huntStopped := iff_of_true rfl rfl
  runningTakes := nofun
  heldUndecided := nofun
  huntInReset := fun _ => rfl

/-- The receiver waits in HUNT at start-up, whatever the level on RXD (R167, R193). -/
theorem lineRuns_startUp {s : State} (h : LinkInv s) (hreset : s.power = .inReset) (rxdLow : Bool) :
    LineRuns (s.startUp rxdLow) := by
  have hhunt := h.huntInReset hreset
  have hfits : (s.startUp rxdLow).link.RxFits := LinkUnit.rxFits_hunt hhunt (h.huntStopped.1 hhunt)
  exact ⟨⟨rfl, h.slots, h.responses, h.resetPending, h.judged, hfits⟩, h.idleEmpty, h.taken⟩

theorem lineRuns_commandReset (s : State) (straps : Straps) (rxdLow : Bool) : LineRuns (s.commandReset straps rxdLow) :=
  lineRuns_startUp (linkInv_fullReset s _ _ straps) rfl rxdLow

namespace LineRuns

variable {s : State}

/-- A break that empties no response to a RESET leaves the dispatcher as the frame on the wire has it (R168, R191). -/
theorem breakEffects (h : LineRuns s) (hreset : s.link.responses.any (·.ofReset) = false) :
    LineRuns s.breakEffects := by
  have hemptied : LineRuns { s with link := { s.link.toHunt with
      rxd := .breakLow, slots := [], responses := [], lec := 0, state := .ok
      counters := { s.link.counters with breaks := satInc s.link.counters.breaks } } } := by
    refine ⟨⟨h.base.power, Nat.zero_le _, Nat.zero_le _, h.base.resetPending.trans ?_, Nat.zero_le _,
      LinkUnit.rxFits_hunt rfl rfl⟩, fun _ => rfl, fun hne => absurd rfl hne⟩
    simp only [LinkUnit.resetAnswered, hreset]
    rfl
  unfold State.breakEffects
  dsimp only
  split
  · exact hemptied.of_view rfl
  · exact hemptied.of_view rfl

theorem breakEvent (h : LineRuns s) (straps : Straps) : LineRuns (s.breakEvent straps) := by
  unfold State.breakEvent
  split
  · exact h
  · split
    · exact lineRuns_commandReset _ straps true
    · next hreset => exact (h.breakEffects (Bool.eq_false_iff.2 hreset)).transmit

theorem frameEndEvent (h : LineRuns s) (straps : Straps) (rxdLow : Bool) :
    LineRuns (s.frameEndEvent straps rxdLow) := by
  unfold State.frameEndEvent
  split
  · exact h
  · exact lineRuns_commandReset s straps rxdLow
  · next bytes htx =>
    have hended : LineBase { s with link := { s.link with tx := .idle } } :=
      h.base.queued (u := s.rep) (n := s.choices) h.base.responses (by simp [LinkUnit.resetAnswered, htx])
    exact hended.transmit.dispatch (transmit_chosen _)

theorem holdUndecided (h : LineRuns s) : LineRuns s.holdUndecided := by
  have hrx := h.base.rx
  have hfits : LinkUnit.RxFits { s.link with
      rxd := .undecided, gapTimer := if s.link.gapTimer = .running then .held else s.link.gapTimer } := by
    refine ⟨hrx.partialFrame, hrx.huntStopped.trans ?_, ?_, fun _ => rfl⟩ <;> dsimp only <;> split
    · next hruns => simp [hruns]
    · rfl
    · exact nofun
    · next hrests => exact fun hruns => absurd hruns hrests
  exact h.line (k := s.link.counters) (hold := s.link.startUpHold) hfits

/-- RXD back high lets the receiver take bytes again; no gap timer is then held still but behind an undecided byte
(R157, R167). -/
theorem returnsHigh (h : LineRuns s) (hdecided : s.link.rxd ≠ .undecided) :
    LineRuns { s with link := { s.link with rxd := .taking } } := by
  have hrx := h.base.rx
  exact h.line (k := s.link.counters) (hold := s.link.startUpHold)
    ⟨hrx.partialFrame, hrx.huntStopped, fun _ => rfl, fun hheld => absurd (hrx.heldUndecided hheld) hdecided⟩

/-- An undecided byte is judged a framing error once RXD is high: in HUNT it leaves no trace, and inside a frame the
receiver returns to HUNT (R157). -/
theorem undecidedJudged (h : LineRuns s) :
    LineRuns (State.framingErrorEvent { s with link := { s.link with rxd := .taking } }) := by
  have hrx := h.base.rx
  unfold State.framingErrorEvent
  split
  · next hhunt =>
    exact h.line (k := s.link.counters) (hold := s.link.startUpHold)
      (LinkUnit.rxFits_hunt hhunt (hrx.huntStopped.1 hhunt))
  · refine lineError (s := { s with link := { s.link with rxd := .taking } }) ?_ _ 4
    exact h.line (k := s.link.counters) (hold := s.link.startUpHold) (LinkUnit.rxFits_hunt rfl rfl)

end LineRuns

/-! ## The commands -/

section

variable {s t : State} (hs : LinkInv s)
include hs

theorem linkInv_whenRunning {f : State → State} (hf : ∀ u, LineRuns u → LineRuns (f u))
    (h : s.whenRunning f = .next t) : LinkInv t := by
  unfold State.whenRunning at h
  cases h
  split
  · next hpower => exact (hf s (hs.runs hpower)).linkInv
  · exact hs

theorem linkInv_whenTaking {f : State → State} (hf : ∀ u, u.link.rxd = .taking → LineRuns u → LineRuns (f u))
    (h : s.whenTaking f = .next t) : LinkInv t :=
  linkInv_whenRunning hs (fun u hu => by
    split
    · next htakes => exact hf u (beq_iff_eq.1 htakes) hu
    · exact hu) h

end

/-- A command's meaning keeps the link unit within its rules. -/
theorem linkInv_exec {c : Instr} {s t : State} (hs : LinkInv s) (h : exec c s = .next t) : LinkInv t := by
  cases hf : requestFrame c with
  | some fr =>
    rw [exec_request hf] at h
    exact linkInv_whenRunning hs (fun _ hu => hu.submit _ _ _) h
  | none =>
    cases c <;> simp only [requestFrame, reduceCtorEq] at hf
    case reportAck tag p => exact linkInv_whenTaking hs (fun _ _ hu => hu.goodFrame _ tag p) h
    case goodFrame kind tag p => exact linkInv_whenTaking hs (fun _ _ hu => hu.goodFrame kind tag p) h
    case crcError => exact linkInv_whenTaking hs (fun _ _ hu => LineRuns.lineError hu.toHunt _ 8) h
    case lengthError => exact linkInv_whenTaking hs (fun _ _ hu => LineRuns.lineError hu.toHunt _ 8) h
    case framingError data =>
      simp only [exec, execFramingError] at h
      refine linkInv_whenTaking hs (fun _ _ hu => ?_) h
      split
      · exact hu.holdUndecided
      · exact hu.framingErrorEvent
    case gapTimerExpiry =>
      simp only [exec, execGapTimerExpiry] at h
      refine linkInv_whenRunning hs (fun _ hu => ?_) h
      split
      · exact LineRuns.lineError hu.toHunt _ 4
      · exact hu
    case lineBreak straps => exact linkInv_whenRunning hs (fun _ hu => hu.breakEvent straps) h
    case startUpHoldEnd =>
      simp only [exec, execStartUpHoldEnd] at h
      refine linkInv_whenTaking hs (fun _ _ hu => ?_) h
      split
      · exact hu.holdEnded.transmit
      · exact hu
    case powerOnReset straps =>
      cases h
      exact linkInv_fullReset s _ _ straps
    case pinReset straps =>
      cases h
      exact linkInv_fullReset s _ _ straps
    case startUp rxdLow =>
      cases h
      split
      · next hreset => exact (lineRuns_startUp hs hreset rxdLow).linkInv
      · exact hs
    case frameEnd straps rxdLow => exact linkInv_whenRunning hs (fun _ hu => hu.frameEndEvent straps rxdLow) h
    case tick => exact linkInv_whenRunning hs (fun _ hu => hu.tick) h
    case release i => exact linkInv_whenRunning hs (fun _ hu => hu.releaseEvent i) h
    case stageCompletion => exact linkInv_whenRunning hs (fun _ hu => hu.stageCompletion) h
    case retryTimerExpiry =>
      simp only [exec, execRetryTimerExpiry] at h
      refine linkInv_whenRunning hs (fun _ hu => ?_) h
      split
      · exact hu.retryExpiry
      · exact hu
    case supervisionExpiry =>
      simp only [exec, execSupervisionExpiry] at h
      refine linkInv_whenRunning hs (fun u hu => ?_) h
      split
      · have hclaimed : LineRuns (u.claimSafe .supervision).restartSupervision :=
          (hu.of_view (lineView_claimSafe u .supervision)).of_view rfl
        exact hclaimed.transmit
      · exact hu
    case byteReceived b => exact linkInv_whenTaking hs (fun _ htakes hu => hu.receiveByte htakes b) h
    case rxdReturnsHigh =>
      simp only [exec, execRxdReturnsHigh] at h
      refine linkInv_whenRunning hs (fun _ hu => ?_) h
      split
      · exact hu.undecidedJudged
      · next hdecided => exact hu.returnsHigh hdecided

end Sys2Proof.Machine

open Sys2Proof Sys2Proof.Machine

/-- Settles O59, command by command: the loops and the requests are out of the line's sight, and what the line does
leaves a transmitter that has chosen and slots that wait for a reason. -/
theorem linkUnitStaysConsistent : Obligations.LinkUnitStaysConsistent := by
  intro s t hs h
  unfold step at h
  split at h
  · cases h
    exact hs
  · next c rest _ =>
    obtain ⟨h1, h2, h3, h4, h5, h6, h7, h8, h9, h10, h11⟩ := hs
    exact linkInv_exec (s := s.withPending rest) ⟨h1, h2, h3, h4, h5, h6, h7, h8, h9, h10, h11⟩ h
end

section
/-! SUPPORT. A request the dispatcher cannot take, and a response at the transmitter (R159 to R161, R171). -/

set_option Elab.async false

namespace Sys2Proof.Machine

/-! ## Requests that find no slot -/

theorem dispatcherFree_eq_false {s : State} (h : 4 ≤ s.link.responses.length ∨ s.ctl.resetPending = true) :
    s.dispatcherFree = false := by
  refine Bool.eq_false_iff.2 fun hfree => ?_
  obtain ⟨hroom, hrun⟩ := dispatcherFree_iff.1 hfree
  rcases h with hfull | hpending
  · exact absurd hroom (Nat.not_lt.2 hfull)
  · rw [hrun] at hpending
    cases hpending

/-- With all four slots filled and a dispatcher that cannot take one, a request is an overrun (R159). -/
theorem submit_overrun {s : State} (hfull : 4 ≤ s.link.slots.length)
    (hbusy : 4 ≤ s.link.responses.length ∨ s.ctl.resetPending = true) (kind tag : Byte) (p : List Byte) :
    s.submit kind tag p = s.modCounters fun c => { c with overruns := satInc c.overruns } := by
  have hover : s.placeInSlot ⟨kind, tag, p⟩ = s.modCounters fun c => { c with overruns := satInc c.overruns } :=
    if_neg (Nat.not_lt.2 hfull)
  rw [State.submit, hover]
  exact dispatch_busy (dispatcherFree_eq_false hbusy)

/-! ## The transmitter's choice (R161) -/

theorem reportOffered_none {s : State} (h : s.link.startUpHold = true ∨ s.link.state = .mute ∨ s.rep.take = none) :
    s.reportOffered = none := by
  unfold State.reportOffered
  split
  · next hmay =>
    simp only [LinkUnit.mayReport, LinkUnit.isMute, Bool.and_eq_true, Bool.not_eq_true', beq_eq_false_iff_ne] at hmay
    rcases h with hhold | hmute | hnone
    · rw [hmay.1] at hhold
      cases hhold
    · exact absurd hmute hmay.2
    · exact hnone
  · rfl

theorem reportOffered_eq_take {s : State} (hhold : s.link.startUpHold = false) (hmute : s.link.state ≠ .mute) :
    s.reportOffered = s.rep.take :=
  if_pos (by simp [LinkUnit.mayReport, LinkUnit.isMute, hhold, hmute])

theorem transmit_response {s : State} {r : Response} {rest : List Response} (hidle : s.link.tx = .idle)
    (hqueue : s.link.responses = r :: rest) : s.transmit = s.startResponse r rest := by
  simp only [State.transmit, hidle, hqueue]

theorem transmit_report {s : State} (hidle : s.link.tx = .idle) (hqueue : s.link.responses = []) :
    s.transmit = s.startReport := by
  simp only [State.transmit, hidle, hqueue]

theorem startReport_none {s : State} (h : s.reportOffered = none) : s.startReport = s := by
  rw [State.startReport, h]

theorem startReport_some {s : State} {e : ReportEntry} {u : ReportUnit} (h : s.reportOffered = some (e, u)) :
    s.startReport = { s with rep := u, link := { s.link with tx := .sending e.frame false } } := by
  rw [State.startReport, h]

/-- Where no report competes, the choice behind a response is the usual one (R161). -/
theorem transmitAfterResponse_uncontested {s : State} (h : s.link.tx ≠ .idle ∨ s.reportOffered = none) :
    s.transmitAfterResponse = s.transmit := by
  have hcontested : s.contested = false := by
    rcases h with h | h
    · simp [State.contested, beq_eq_false_iff_ne.2 h]
    · simp [State.contested, h]
  rw [State.transmitAfterResponse, hcontested]
  rfl

/-- Where a report stands on offer to an idle transmitter, either the response or the report is taken (R161; log
entry 2). -/
theorem transmitAfterResponse_contested {s : State} (hidle : s.link.tx = .idle) (hqueue : s.link.responses ≠ [])
    (hoffered : s.reportOffered.isSome = true) :
    s.transmitAfterResponse = State.transmit { s with choices := s.choices + 1 }
      ∨ s.transmitAfterResponse = State.startReport { s with choices := s.choices + 1 } := by
  have hcontested : s.contested = true := by simp [State.contested, hidle, hqueue, hoffered]
  rw [State.transmitAfterResponse, if_pos hcontested]
  dsimp only
  split
  · exact .inr rfl
  · exact .inl rfl

/-- A response at the back of the queue, ahead of the transmitter's choice (R160). -/
def State.queued (s : State) (r : Response) : State :=
  { s with link := { s.link with responses := s.link.responses ++ [r] } }

theorem reply_eq (s : State) (kind tag : Byte) (p : List Byte) (b : Bool) :
    s.reply kind tag p b = (s.queued ⟨kind, tag, p, b⟩).transmitAfterResponse := rfl

/-- A response alone in the queue of an idle transmitter begins its frame (R161). -/
theorem transmit_queued {s : State} (hidle : s.link.tx = .idle) (hempty : s.link.responses = []) (r : Response) :
    (s.queued r).transmit =
      { s with link := { s.link with tx := .sending (frameBytes r.kind r.tag r.payload) r.ofReset } } := by
  have hqueue : (s.queued r).link.responses = r :: [] := by simp [State.queued, hempty]
  rw [transmit_response (s := s.queued r) hidle hqueue]
  simp only [State.startResponse, State.queued, ← hempty]

end Sys2Proof.Machine

open Sys2Proof Sys2Proof.Machine

/-- Settles O24: a busy dispatcher leaves the request in its slot, or the overrun counted. -/
theorem requestsWaitOrOverrun : Obligations.RequestsWaitOrOverrun := by
  intro s c fr hc hpower hbusy
  refine ⟨fun hroom => exec_waiting hc ⟨hpower, hroom, hbusy⟩, fun hfull => ?_⟩
  rw [exec_request hc, State.whenRunning, if_pos hpower, submit_overrun hfull hbusy]
  rfl

/-- Settles O25, by what the transmitter is doing and what is on offer to it. -/
theorem responsesReachTheTransmitter : Obligations.ResponsesReachTheTransmitter := by
  intro s kind tag payload ofReset r begun
  rw [reply_eq]
  refine ⟨fun hbusy => ?_, fun hidle hempty hnone => ?_, fun e u hidle hempty hhold hmute htake => ?_⟩
  · rw [transmitAfterResponse_uncontested (s := s.queued r) (.inl hbusy)]
    cases htx : s.link.tx with
    | idle => exact absurd htx hbusy
    | sending bytes b => exact transmit_sending (s := s.queued r) htx
  · rw [transmitAfterResponse_uncontested (s := s.queued r) (.inr (reportOffered_none hnone))]
    exact transmit_queued hidle hempty r
  · have hoffered : (s.queued r).reportOffered = some (e, u) := (reportOffered_eq_take hhold hmute).trans htake
    have hqueue : (s.queued r).link.responses = [r] := by simp [State.queued, hempty]
    have hne : (s.queued r).link.responses ≠ [] := ne_of_eq_of_ne hqueue (List.cons_ne_nil _ _)
    rcases transmitAfterResponse_contested (s := s.queued r) hidle hne (Option.isSome_of_eq_some hoffered) with h | h
    · exact .inl (h.trans (transmit_queued (s := { s with choices := s.choices + 1 }) hidle hempty r))
    · refine .inr ((h.trans (startReport_some hoffered)).trans ?_)
      simp only [State.queued, hempty, List.nil_append]
end

section
/-! SUPPORT. The link judged at a change of the LEC, a good frame in every link state, and the line errors (R155 to
R159, R163 to R165). -/

set_option Elab.async false

namespace Sys2Proof.Machine

/-! ## The link judged (R164) -/

/-- A change of the LEC within the bounds of the link state leaves it. -/
theorem lecBecomes_stays {s : State} {n : Nat} (h : (s.link.state = .ok ∧ n ≤ 63)
    ∨ (s.link.state = .warn ∧ 64 ≤ n ∧ n ≤ 127) ∨ (s.link.state = .mute ∧ 64 ≤ n)) :
    s.lecBecomes n = { s with link := { s.link with lec := BitVec.ofNat 8 n } } := by
  unfold State.lecBecomes
  rcases h with ⟨hstate, hle⟩ | ⟨hstate, hge, hle⟩ | ⟨hstate, hge⟩
  · simp only [hstate, hle, if_true]
  · simp only [hstate, Nat.not_le.2 hge, hle, if_true, if_false]
  · simp only [hstate, Nat.not_le.2 hge, if_false]

theorem lecBecomes_warn {s : State} {n : Nat} (hstate : s.link.state = .ok) (hge : 64 ≤ n) (hle : n ≤ 127) :
    s.lecBecomes n =
      State.offerEngine { s with link := { s.link with lec := BitVec.ofNat 8 n, state := .warn } } .linkWarn := by
  simp only [State.lecBecomes, hstate, Nat.not_le.2 hge, hle, if_true, if_false]

theorem lecBecomes_ok {s : State} {n : Nat} (hstate : s.link.state = .warn) (hle : n ≤ 63) :
    s.lecBecomes n =
      State.offerEngine { s with link := { s.link with lec := BitVec.ofNat 8 n, state := .ok } } .linkOk := by
  simp only [State.lecBecomes, hstate, hle, if_true]

theorem lecBecomes_mute {s : State} {n : Nat} (hstate : s.link.state ≠ .mute) (hge : 128 ≤ n) :
    s.lecBecomes n = State.claimSafe { s with
      link := { s.link with lec := BitVec.ofNat 8 n, state := .mute }
      rep := { s.rep with retryTimer := none } } .linkMute := by
  have h63 : ¬n ≤ 63 := by omega
  have h127 : ¬n ≤ 127 := by omega
  unfold State.lecBecomes
  cases h : s.link.state with
  | ok => simp only [h63, h127, if_false]
  | warn => simp only [h63, h127, if_false]
  | mute => exact absurd h hstate

/-! ## A good frame (R158, R159) -/

theorem goodArrival_power (s : State) : s.goodArrival.power = s.power := by
  rw [goodArrival_eq_arrive]
  exact (StoreMoves.arrive s reportAckKind).power

/-- A row that needs RXD to bring bytes, where it does (R154, R167). -/
theorem whenTaking_receiving {s : State} (h : s.Receiving) (f : State → State) : s.whenTaking f = .next (f s) := by
  obtain ⟨hpower, hrxd⟩ := h
  have htakes : s.takesBytes = true := beq_iff_eq.2 hrxd
  rw [State.whenTaking, State.whenRunning, if_pos hpower, if_pos htakes]

theorem exec_taking {s : State} {c : Instr} {f : State → State} (hc : exec c s = s.whenTaking f) (h : s.Receiving) :
    exec c s = .next (f s) := hc.trans (whenTaking_receiving h f)

/-- A good frame of a request kind with a slot free for it: its arrival, its request row, and the transmitter's choice
(R158, R159). -/
theorem exec_goodFrame_row {s : State} (h : s.Receiving) {c : Instr} {fr : Frame} (hc : requestFrame c = some fr)
    (hkind : fr.kind ≠ 0x40) (hslots : s.link.slots.length < 4) :
    ∃ t : State, exec c s.goodArrival = .next t
      ∧ exec (.goodFrame fr.kind fr.tag fr.payload) s = .next t.transmit := by
  refine ⟨s.goodArrival.submit fr.kind fr.tag fr.payload, ?_, exec_goodFrame h hkind hslots fr.tag fr.payload⟩
  rw [exec_request hc, State.whenRunning, if_pos ((goodArrival_power s).trans h.1)]

/-- A good frame that finds no slot restarts supervision, leaves the LEC, and counts (R159). -/
theorem exec_goodFrame_overrun {s : State} (h : s.Receiving) {kind : Byte} (hkind : kind ≠ reportAckKind)
    (hfull : 4 ≤ s.link.slots.length) (hbusy : 4 ≤ s.link.responses.length ∨ s.ctl.resetPending = true)
    (tag : Byte) (p : List Byte) : exec (.goodFrame kind tag p) s =
      .next (s.frameArrived.modCounters fun c => { c with overruns := satInc c.overruns }).transmit := by
  have hover : s.overrunBy kind = true := Bool.and_eq_true_iff.2 ⟨bne_iff_ne.2 hkind, decide_eq_true hfull⟩
  have harrive : s.arrive kind = s.frameArrived := by
    rw [State.arrive, if_pos hover]
    rfl
  rw [exec_taking (f := fun t => t.goodFrame kind tag p) rfl h, State.goodFrame, if_neg hkind, harrive,
    submit_overrun (s := s.frameArrived) hfull hbusy]

/-- A good REPORT_ACK, whichever of its two rows brings it: its arrival, what the report unit does with it, and the
transmitter's choice (R158, R146). -/
theorem exec_ackFrame {s : State} (h : s.Receiving) {c : Instr} {tag : Byte} {p : List Byte}
    (hc : c = .reportAck tag p ∨ c = .goodFrame 0x40 tag p) :
    exec c s = .next (s.goodArrival.passAck p).transmit := by
  have hframe : exec c s = s.whenTaking fun t => t.goodFrame reportAckKind tag p := by
    rcases hc with rfl | rfl <;> rfl
  rw [exec_taking hframe h, State.goodFrame, if_pos rfl, goodArrival_eq_arrive]

theorem passAck_ignored (s : State) {p : List Byte} (h : p.length ≠ 2 ∨ 16 < (byteAt p 1).toNat) :
    s.passAck p = s.modCounters fun c => { c with protocolErrors := satInc c.protocolErrors } := if_pos h

/-- A REPORT_ACK that acknowledges no RSN held sets the window (R146). -/
theorem passAck_window {s : State} {r w : Byte} (hw : w.toNat ≤ 16) (hnone : s.rep.Lacks r) :
    s.passAck [r, w] = { s with rep := { s.rep with window := w.toNat } } := by
  have htaken : s.passAck [r, w] = s.acknowledge r w.toNat := if_neg (not_or.2 ⟨not_not.2 rfl, Nat.not_lt.2 hw⟩)
  rw [htaken, State.acknowledge, afterRsn_none hnone]

theorem goodArrival_lacks {s : State} {r : Byte} (h : s.rep.Lacks r) : s.goodArrival.rep.Lacks r := by
  rw [goodArrival_eq_arrive]
  exact (StoreMoves.arrive s reportAckKind).lacks h

/-! ## Line errors (R155 to R157, R163) -/

/-- The receiver back in HUNT with a line error counted (R154 to R157). -/
def State.erred (s : State) (k : LinkCounters) : State :=
  { s with link := { s.link with rx := .hunt, gapTimer := .stopped, counters := k } }

/-- A line error of weight `n`: HUNT, the error counted, the LEC raised up to 255 and the link judged, and the
transmitter's choice (R155 to R157, R163). -/
theorem lineError_eq (s : State) (f : LinkCounters → LinkCounters) (n : Nat) :
    ((s.toHunt.modCounters f).raiseLec n).transmit
      = ((s.erred (f s.link.counters)).lecBecomes (min 255 (s.link.lec.toNat + n))).transmit := by
  rw [← changeLec_eq_lecBecomes _ (by omega)]
  rfl

theorem framingErrorEvent_inFrame {s : State} (h : s.link.rx ≠ .hunt) : s.framingErrorEvent = s.gapErrorEvent :=
  if_neg h

theorem exec_gapTimerExpiry {s : State} (h : s.power = .running) :
    exec .gapTimerExpiry s = .next (if s.link.gapTimer = .running then s.gapErrorEvent else s) := by
  rw [exec, execGapTimerExpiry, State.whenRunning, if_pos h]

theorem exec_framingError {s : State} (h : s.Receiving) (d : Byte) :
    exec (.framingError d) s = .next (if d = 0 then s.holdUndecided else s.framingErrorEvent) :=
  exec_taking (f := fun t => if d = 0 then t.holdUndecided else t.framingErrorEvent) rfl h

end Sys2Proof.Machine

open Sys2Proof Sys2Proof.Machine

/-- Settles O27: the arrival of a good frame, and then its request's row or the overrun. -/
theorem goodFramesReachTheSlots : Obligations.GoodFramesReachTheSlots := by
  refine ⟨fun s tag p => rfl, fun s c fr h hc hkind => ⟨exec_goodFrame_row h hc hkind, fun hfull hbusy => ?_⟩⟩
  exact exec_goodFrame_overrun h hkind hfull hbusy fr.tag fr.payload

/-- Settles O28: whatever a good frame brings, its arrival is the LEC lowered and the link judged. -/
theorem lecFallsByOneAtAGoodFrame : Obligations.LecFallsByOneAtAGoodFrame := by
  intro s h a okNow muteLeft count lec arrives
  have harrives (t : State) (ht : s.goodArrival = t) : arrives t := by
    subst ht
    refine ⟨fun c tag p hc hbad => ?_, fun c tag r w hc hw hnone => ?_, fun c fr hc => exec_goodFrame_row h hc⟩
    · rw [exec_ackFrame h hc, passAck_ignored _ hbad]
      rfl
    · rw [exec_ackFrame h hc, passAck_window hw (goodArrival_lacks hnone)]
  refine ⟨fun hstays => harrives a (lecBecomes_stays ?_), fun hwarn hlec => harrives _ (lecBecomes_ok hwarn ?_),
    fun hmute hlec => harrives _ ?_⟩
  · rcases hstays with ⟨hok, hlec⟩ | ⟨hwarn, hge, hle⟩ | ⟨hmute, hge⟩
    · exact .inl ⟨hok, by omega⟩
    · exact .inr (.inl ⟨hwarn, by omega, by omega⟩)
    · exact .inr (.inr ⟨hmute, by omega⟩)
  · omega
  · have hle : s.link.lec.toNat - 1 ≤ 63 := by omega
    have hstate : s.frameArrived.link.state = .mute := hmute
    simp only [State.goodArrival, State.lecBecomes, hstate, hle, if_true]
    rfl

/-- Settles O30: every line error is HUNT, its counter and a raise of the LEC, and the judgement follows. -/
theorem lineErrorsRaiseTheLec : Obligations.LineErrorsRaiseTheLec := by
  intro s c n k h k0 herror lec raised
  have hraise : exec c s = .next ((s.erred k).lecBecomes lec).transmit := by
    rcases herror with ⟨rfl, rfl, rfl⟩ | ⟨rfl, rfl, rfl⟩ | ⟨rfl, rfl, hruns, rfl⟩ | ⟨⟨d, hd, rfl⟩, rfl, hrx, rfl⟩
    · exact (exec_taking rfl h).trans (congrArg _ (lineError_eq s _ 8))
    · exact (exec_taking rfl h).trans (congrArg _ (lineError_eq s _ 8))
    · rw [exec_gapTimerExpiry h.1, if_pos hruns]
      exact congrArg _ (lineError_eq s _ 4)
    · rw [exec_framingError h, if_neg hd, framingErrorEvent_inFrame hrx]
      exact congrArg _ (lineError_eq s _ 4)
  rw [hraise]
  refine ⟨fun hstays => ?_, fun hok hge hle => ?_, fun hne hge => ?_⟩
  · rw [lecBecomes_stays (s := s.erred k) hstays]
    rfl
  · rw [lecBecomes_warn (s := s.erred k) hok hge hle]
    rfl
  · rw [lecBecomes_mute (s := s.erred k) hne hge]
    rfl
end

section
/-! SUPPORT. RXD low, the break and the bytes of the receiver (R154, R157, R166 to R168, R192). -/

set_option Elab.async false

namespace Sys2Proof.Machine

/-! ## RXD low (R157, R167) -/

/-- A row that needs RXD to bring bytes, while it brings none. -/
theorem exec_low {s : State} {c : Instr} {f : State → State} (hc : exec c s = s.whenTaking f)
    (hlow : s.link.rxd ≠ .taking) : exec c s = .next s := by
  have htakes : ¬s.takesBytes = true := fun h => hlow (beq_iff_eq.1 h)
  rw [hc, State.whenTaking, State.whenRunning, if_neg htakes, ite_self]

theorem exec_rxdReturnsHigh {s : State} (h : s.power = .running) :
    exec .rxdReturnsHigh s = .next (
      if s.link.rxd = .undecided then State.framingErrorEvent { s with link := { s.link with rxd := .taking } }
      else { s with link := { s.link with rxd := .taking } }) := by
  rw [exec, execRxdReturnsHigh, State.whenRunning, if_pos h]

theorem framingErrorEvent_hunt {s : State} (h : s.link.rx = .hunt) : s.framingErrorEvent = s := if_pos h

/-! ## The break (R167, R168, R192) -/

theorem exec_lineBreak {s : State} (h : s.power = .running) (straps : Straps) :
    exec (.lineBreak straps) s = .next (s.breakEvent straps) := by
  rw [exec, execLineBreak, State.whenRunning, if_pos h]

theorem commandReset_eq (s : State) (straps : Straps) (rxdLow : Bool) :
    s.commandReset straps rxdLow = commandResetState s straps rxdLow := rfl

/-- The link unit behind a break (R166 to R168). -/
def State.emptied (s : State) : State :=
  { s with link := { s.link with
    rx := .hunt, gapTimer := .stopped, rxd := .breakLow, slots := [], responses := [], lec := 0, state := .ok
    counters := { s.link.counters with breaks := satInc s.link.counters.breaks } } }

/-- A break tells the host of a link that was not OK, and sends every report back (R149, R168). -/
theorem breakEffects_eq (s : State) : s.breakEffects =
    let told := if s.link.state = .ok then s.emptied else s.emptied.offerEngine .linkReset
    { told with rep := { told.rep with
      store := told.rep.store.map resendEntry, window := told.rep.defaultWindow, retryTimer := none } } := by
  unfold State.breakEffects
  by_cases h : s.link.state = .ok
  · simp only [h, beq_self_eq_true, if_true]
    rfl
  · simp only [h, beq_eq_false_iff_ne.2 h, if_false]
    rfl

/-- The full reset behind a break keeps of the state what it keeps of the state ahead of it (R192, R193). -/
theorem commandReset_breakEffects (s : State) (straps : Straps) :
    s.breakEffects.commandReset straps true = commandResetState s straps true := by
  rw [breakEffects_eq, commandReset_eq]
  dsimp only
  split <;> rfl

/-! ## The receiver (R154) -/

theorem exec_byteReceived {s : State} (h : s.Receiving) (b : Byte) :
    exec (.byteReceived b) s = .next (s.receiveByte b) := exec_taking (f := fun t => t.receiveByte b) rfl h

theorem exec_crcError {s : State} (h : s.Receiving) : exec .crcError s = .next s.crcErrorEvent :=
  exec_taking (f := State.crcErrorEvent) rfl h

theorem exec_lengthError {s : State} (h : s.Receiving) : exec .lengthError s = .next s.lengthErrorEvent :=
  exec_taking (f := State.lengthErrorEvent) rfl h

theorem exec_goodFrame_receiving {s : State} (h : s.Receiving) (kind tag : Byte) (p : List Byte) :
    exec (.goodFrame kind tag p) s = .next (s.goodFrame kind tag p) :=
  exec_taking (f := fun t => t.goodFrame kind tag p) rfl h

section

variable {s : State} {b kind tag len : Byte} {got : List Byte}

theorem receiveByte_sync (h : s.link.rx = .hunt) (hb : b = 0xA5) : s.receiveByte b = s.receiving (.header []) := by
  simp only [State.receiveByte, h, hb, if_true]

theorem receiveByte_noise (h : s.link.rx = .hunt) (hb : b ≠ 0xA5) : s.receiveByte b = s := by
  simp only [State.receiveByte, h, hb, if_false]

theorem receiveByte_kind (h : s.link.rx = .header []) : s.receiveByte b = s.receiving (.header [b]) := by
  simp only [State.receiveByte, h]

theorem receiveByte_tag (h : s.link.rx = .header [kind]) : s.receiveByte b = s.receiving (.header [kind, b]) := by
  simp only [State.receiveByte, h]

theorem receiveByte_noPayload (h : s.link.rx = .header [kind, tag]) (hb : b = 0) :
    s.receiveByte b = s.receiving (.check kind tag [] none) := by
  simp only [State.receiveByte, h, State.lengthByte, hb]
  rfl

theorem receiveByte_length (h : s.link.rx = .header [kind, tag]) (hb : b ≠ 0) (hle : b.toNat ≤ 240) :
    s.receiveByte b = s.receiving (.body kind tag b []) := by
  simp only [State.receiveByte, h, State.lengthByte, Config.maxPayload, Nat.not_lt.2 hle, hb, if_false]

theorem receiveByte_tooLong (h : s.link.rx = .header [kind, tag]) (hgt : 240 < b.toNat) :
    s.receiveByte b = s.lengthErrorEvent := by
  simp only [State.receiveByte, h, State.lengthByte, Config.maxPayload, hgt, if_true]

theorem receiveByte_payload (h : s.link.rx = .body kind tag len got) (hlt : got.length + 1 < len.toNat) :
    s.receiveByte b = s.receiving (.body kind tag len (got ++ [b])) := by
  simp only [State.receiveByte, h, List.length_append, List.length_singleton, hlt, if_true]

theorem receiveByte_lastPayload (h : s.link.rx = .body kind tag len got) (hle : len.toNat ≤ got.length + 1) :
    s.receiveByte b = s.receiving (.check kind tag (got ++ [b]) none) := by
  simp only [State.receiveByte, h, List.length_append, List.length_singleton, Nat.not_lt.2 hle, if_false]

theorem receiveByte_checkHigh (h : s.link.rx = .check kind tag got none) :
    s.receiveByte b = s.receiving (.check kind tag got (some b)) := by
  simp only [State.receiveByte, h]

theorem receiveByte_good {high : Byte} (h : s.link.rx = .check kind tag got (some high))
    (hcrc : crc16 (checkedBytes kind tag got) = high ++ b) : s.receiveByte b = s.goodFrame kind tag got := by
  simp only [State.receiveByte, h, State.frameEnded, hcrc, if_true]

theorem receiveByte_bad {high : Byte} (h : s.link.rx = .check kind tag got (some high))
    (hcrc : crc16 (checkedBytes kind tag got) ≠ high ++ b) : s.receiveByte b = s.crcErrorEvent := by
  simp only [State.receiveByte, h, State.frameEnded, hcrc, if_false]

end

end Sys2Proof.Machine

open Sys2Proof Sys2Proof.Machine

/-- Settles O31: which rows need RXD to bring bytes, and what an undecided byte comes to. -/
theorem lowLineTakesNoBytes : Obligations.LowLineTakesNoBytes := by
  refine ⟨fun s d h hd hhunt => ?_, fun s h => ?_, fun s c _ hlow hc => ?_, fun s hpower => ?_,
    fun s hpower hrests => ?_⟩
  · rw [exec_framingError h, if_neg hd, framingErrorEvent_hunt hhunt]
  · rw [exec_framingError h, if_pos rfl]
    rfl
  · rcases hc with ⟨k, t, p, rfl⟩ | ⟨t, p, rfl⟩ | rfl | rfl | ⟨d, rfl⟩ | ⟨d, rfl⟩ | rfl
    · exact exec_low (f := fun u => u.goodFrame k t p) rfl hlow
    · exact exec_low (f := fun u => u.goodFrame reportAckKind t p) rfl hlow
    · exact exec_low (f := State.crcErrorEvent) rfl hlow
    · exact exec_low (f := State.lengthErrorEvent) rfl hlow
    · exact exec_low (f := fun u => if d = 0 then u.holdUndecided else u.framingErrorEvent) rfl hlow
    · exact exec_low (f := fun u => u.receiveByte d) rfl hlow
    · exact exec_low rfl hlow
  · intro high
    rw [exec_rxdReturnsHigh hpower]
    refine ⟨fun h => ?_, fun hundecided hframe => ⟨high.framingErrorEvent, by rw [if_pos hundecided], ?_⟩⟩
    · split
      · next hundecided =>
        rw [framingErrorEvent_hunt (s := high) (h.resolve_left (not_not.2 hundecided))]
      · rfl
    · rw [exec_framingError (s := high) ⟨hpower, rfl⟩, if_neg (by decide)]
  · rw [exec_gapTimerExpiry hpower, if_neg hrests]

/-- Settles O32: a recognised break, and the full reset where it empties the response to a RESET. -/
theorem breakStartsTheLinkAfresh : Obligations.BreakStartsTheLinkAfresh := by
  intro s straps hpower emptied told
  rw [exec_lineBreak hpower, State.breakEvent]
  refine ⟨fun hlow => by rw [if_pos hlow], fun hhigh hnone => ?_, fun hhigh hreset => ?_⟩
  · have hno : ¬s.link.responses.any (·.ofReset) = true := by simpa using hnone
    rw [if_neg hhigh, if_neg hno, breakEffects_eq]
    rfl
  · rw [if_neg hhigh, if_pos (by simpa using hreset), commandReset_breakEffects]

/-- Settles O35, row by row of the receiver's table. -/
theorem receiverTreatsEachByte : Obligations.ReceiverTreatsEachByte := by
  intro s b h goes
  have hgoes {rx : Receiver} (hrx : s.receiveByte b = s.receiving rx) : goes rx :=
    (exec_byteReceived h b).trans (congrArg _ hrx)
  refine ⟨fun hrx hb => hgoes (receiveByte_sync hrx hb), fun hrx hb => ?_, fun hrx => hgoes (receiveByte_kind hrx),
    fun kind hrx => hgoes (receiveByte_tag hrx), fun kind tag hrx => ⟨fun hb => hgoes (receiveByte_noPayload hrx hb),
      fun hb hle => hgoes (receiveByte_length hrx hb hle), fun hgt => ?_⟩,
    fun kind tag len got hrx => ⟨fun hlt => hgoes (receiveByte_payload hrx hlt),
      fun hle => hgoes (receiveByte_lastPayload hrx hle)⟩,
    fun kind tag got hrx => hgoes (receiveByte_checkHigh hrx),
    fun kind tag got high hrx => ⟨fun hcrc => ?_, fun hcrc => ?_⟩⟩
  · rw [exec_byteReceived h, receiveByte_noise hrx hb]
  · rw [exec_byteReceived h, receiveByte_tooLong hrx hgt, exec_lengthError h]
  · rw [exec_byteReceived h, receiveByte_good hrx hcrc, exec_goodFrame_receiving h]
  · rw [exec_byteReceived h, receiveByte_bad hrx hcrc, exec_crcError h]
end

section
/-! SUPPORT. The CRC register, the bytes of a frame, and the receiver taking them one after another (R153, R154,
R156). -/

set_option Elab.async false

namespace Sys2Proof.Machine

/-! ## The CRC and the frame layout (R153) -/

/-- A byte enters the high eight bits of the CRC register. -/
theorem setWidth_shiftLeft_eight (b : Byte) : b.setWidth 16 <<< 8 = b ++ (0 : Byte) := by
  rw [BitVec.append_def, BitVec.shiftLeftZeroExtend_eq]
  exact (BitVec.or_zero).symm

theorem crcByte_eq (r : BitVec 16) (b : Byte) : crcByte r b = crcShift^[8] (r ^^^ (b ++ (0 : Byte))) := by
  rw [crcByte, setWidth_shiftLeft_eight]
  rfl

theorem crc16_append (l : List Byte) (b : Byte) : crc16 (l ++ [b]) = crcByte (crc16 l) b := by
  simp [crc16]

/-! ## Bytes taken one after another (R154) -/

/-- A byte that the receiver takes leaves the rest of the line to the state it comes to. -/
theorem feed_cons {s t : State} {b : Byte} (h : exec (.byteReceived b) s = .next t) (rest : List Byte) :
    feed s (b :: rest) = feed t rest := by
  simp only [feed, List.foldl_cons, h]

theorem feed_single (s : State) (b : Byte) : feed s [b] = exec (.byteReceived b) s := rfl

section

variable {s : State} (h : s.Receiving)
include h

theorem receiving_receiving (rx : Receiver) : (s.receiving rx).Receiving := h

/-- A byte the receiver takes into its partial frame. -/
theorem feed_receiving {rx rx' : Receiver} {b : Byte} (hb : (s.receiving rx).receiveByte b = s.receiving rx')
    (rest : List Byte) : feed (s.receiving rx) (b :: rest) = feed (s.receiving rx') rest :=
  feed_cons ((exec_byteReceived (receiving_receiving h rx) b).trans (congrArg _ hb)) rest

/-- The payload's bytes up to the last of LEN (R154). -/
theorem feed_payload {kind tag len : Byte} {rest : List Byte} (hne : rest ≠ []) (tail : List Byte) {got : List Byte}
    (hlen : got.length + rest.length = len.toNat) :
    feed (s.receiving (.body kind tag len got)) (rest ++ tail)
      = feed (s.receiving (.check kind tag (got ++ rest) none)) tail := by
  induction rest generalizing got with
  | nil => exact absurd rfl hne
  | cons b rest ih =>
    rw [List.length_cons] at hlen
    rw [List.cons_append]
    cases rest with
    | nil => exact feed_receiving h (receiveByte_lastPayload rfl (Nat.le_of_eq hlen.symm)) tail
    | cons c rest =>
      rw [List.length_cons] at hlen
      rw [feed_receiving h (receiveByte_payload rfl (by omega)), ih (List.cons_ne_nil c rest), List.append_assoc]
      · rfl
      · simp only [List.length_append, List.length_cons, List.length_nil]
        omega

/-- LEN and the payload, the empty one among them (R154). -/
theorem feed_lengthAndPayload {kind tag : Byte} {p : List Byte} (hp : p.length ≤ 240) (tail : List Byte) :
    feed (s.receiving (.header [kind, tag])) (natByte p.length :: p ++ tail)
      = feed (s.receiving (.check kind tag p none)) tail := by
  have hlen : (natByte p.length).toNat = p.length := natByte_toNat (by omega)
  by_cases hempty : p = []
  · subst hempty
    exact feed_receiving h (receiveByte_noPayload rfl rfl) tail
  · have hne : natByte p.length ≠ 0 := fun h0 => hempty (List.length_eq_zero_iff.1 (by rw [← hlen, h0]; rfl))
    rw [List.cons_append, feed_receiving h (receiveByte_length rfl hne (hlen.trans_le hp)),
      feed_payload h hempty tail (by rw [hlen]; exact Nat.zero_add _)]
    rfl

/-- The bytes of a frame have the effect of that good frame (R153, R154, R156). -/
theorem feed_frameBytes (hhunt : s.link.rx = .hunt) (kind tag : Byte) {p : List Byte} (hp : p.length ≤ 240) :
    feed s (frameBytes kind tag p) = exec (.goodFrame kind tag p) s := by
  let crc := crc16 (checkedBytes kind tag p)
  have hcrc : crc = crc.extractLsb' 8 8 ++ crc.extractLsb' 0 8 := (extract_append_16 crc).symm
  have hsync := (exec_byteReceived h 0xA5).trans (congrArg _ (receiveByte_sync hhunt rfl))
  calc feed s (frameBytes kind tag p)
      = feed (s.receiving (.header [])) (kind :: tag :: (natByte p.length :: p ++ bytes16 crc)) := feed_cons hsync _
    _ = feed (s.receiving (.header [kind, tag])) (natByte p.length :: p ++ bytes16 crc) := by
      rw [feed_receiving h (receiveByte_kind rfl), feed_receiving h (receiveByte_tag rfl)]
    _ = feed (s.receiving (.check kind tag p (some (crc.extractLsb' 8 8)))) [crc.extractLsb' 0 8] := by
      rw [feed_lengthAndPayload h hp, bytes16, feed_receiving h (receiveByte_checkHigh rfl)]
    _ = .next (State.goodFrame (s.receiving (.check kind tag p (some (crc.extractLsb' 8 8)))) kind tag p) := by
      rw [feed_single, exec_byteReceived (receiving_receiving h _), receiveByte_good rfl hcrc]
    _ = exec (.goodFrame kind tag p) s := (exec_goodFrame_receiving h kind tag p).symm

end

end Sys2Proof.Machine

open Sys2Proof Sys2Proof.Machine

/-- Settles O36: the CRC register byte by byte, the layout, and the receiver led through a frame's bytes. -/
theorem framesAreReadByteByByte : Obligations.FramesAreReadByteByByte := by
  refine ⟨rfl, fun l b => ?_, by decide +kernel, fun kind tag p => ?_,
    fun s kind tag p h hhunt => feed_frameBytes h hhunt kind tag⟩
  · rw [crc16_append, crcByte_eq]
    rfl
  · rfl
end

section
/-! SUPPORT. What waits in the slots is out of a request's sight: carried out with other frames waiting, a request does
the same and answers the same (R171, R173). -/

set_option Elab.async false

namespace Sys2Proof.Machine

/-- The state with other frames waiting in the slots. -/
def State.withSlots (s : State) (q : List Frame) : State := { s with link := { s.link with slots := q } }

section

variable (s : State) (q : List Frame)

@[simp] theorem withSlots_loop (i : LoopId) : (s.withSlots q).loop i = s.loop i := rfl
@[simp] theorem withSlots_rep : (s.withSlots q).rep = s.rep := rfl
@[simp] theorem withSlots_cu : (s.withSlots q).cu = s.cu := rfl
@[simp] theorem withSlots_ctl : (s.withSlots q).ctl = s.ctl := rfl
@[simp] theorem withSlots_time : (s.withSlots q).time = s.time := rfl
@[simp] theorem withSlots_samples : (s.withSlots q).samples = s.samples := rfl
@[simp] theorem withSlots_linkState : (s.withSlots q).link.state = s.link.state := rfl
@[simp] theorem withSlots_noneDue : (s.withSlots q).noneDue = s.noneDue := rfl

/-! ## Loops, reports and alarms -/

@[simp] theorem modLoop_withSlots (i : LoopId) (f : LoopEntry → LoopEntry) :
    (s.withSlots q).modLoop i f = (s.modLoop i f).withSlots q := rfl

@[simp] theorem refreshAlert_withSlots : (s.withSlots q).refreshAlert = s.refreshAlert.withSlots q := rfl

@[simp] theorem endInstance_withSlots (i : LoopId) :
    (s.withSlots q).endInstance i = (s.endInstance i).withSlots q := rfl

@[simp] theorem offerOutput_withSlots (r : OutputReport) :
    (s.withSlots q).offerOutput r = (s.offerOutput r).withSlots q := by
  unfold State.offerOutput
  rw [withSlots_rep]
  split <;> rfl

@[simp] theorem produceOutput_withSlots (r : OutputReport) :
    (s.withSlots q).produceOutput r = (s.produceOutput r).withSlots q := by
  simp [State.produceOutput]

@[simp] theorem safeOutput_withSlots (i : LoopId) :
    (s.withSlots q).safeOutput i = (s.safeOutput i).withSlots q := by
  unfold State.safeOutput
  rw [withSlots_loop]
  split
  · rfl
  · split
    · rfl
    · exact produceOutput_withSlots s q _

@[simp] theorem offerAlarm_withSlots (i : LoopId) (f : FlagSet) :
    (s.withSlots q).offerAlarm i f = (s.offerAlarm i f).withSlots q := by
  unfold State.offerAlarm
  rw [withSlots_rep, withSlots_loop]
  split <;> rfl

@[simp] theorem raiseAlarm_withSlots (i : LoopId) (f : FlagSet) :
    (s.withSlots q).raiseAlarm i f = (s.raiseAlarm i f).withSlots q := by
  unfold State.raiseAlarm
  split
  · rfl
  · exact offerAlarm_withSlots s q i _

@[simp] theorem remask_withSlots (i : LoopId) (m : FlagSet) :
    (s.withSlots q).remask i m = (s.remask i m).withSlots q := by
  simp [State.remask]

@[simp] theorem enterHeld_withSlots (i : LoopId) (f : LoopEntry → LoopEntry) :
    (s.withSlots q).enterHeld i f = (s.enterHeld i f).withSlots q := by
  unfold State.enterHeld
  dsimp only
  rw [modLoop_withSlots, withSlots_loop, withSlots_loop]
  split
  · exact safeOutput_withSlots _ q i
  · rfl

theorem foldl_withSlots {f : LoopId → State → State} (hf : ∀ i t, f i (t.withSlots q) = (f i t).withSlots q)
    (l : List LoopId) :
    l.foldl (fun t i => f i t) (s.withSlots q) = (l.foldl (fun t i => f i t) s).withSlots q := by
  induction l generalizing s with
  | nil => rfl
  | cons i rest ih => rw [List.foldl_cons, List.foldl_cons, hf, ih]

theorem eachLoop_withSlots {f : LoopId → State → State} (hf : ∀ i t, f i (t.withSlots q) = (f i t).withSlots q) :
    (s.withSlots q).eachLoop f = (s.eachLoop f).withSlots q := foldl_withSlots s q hf allLoops

theorem eachNamed_withSlots {f : LoopId → State → State} (hf : ∀ i t, f i (t.withSlots q) = (f i t).withSlots q)
    (m : LoopMask) : (s.withSlots q).eachNamed m f = (s.eachNamed m f).withSlots q :=
  eachLoop_withSlots s q fun i t => by
    split
    · exact hf i t
    · rfl

/-! ## The computation unit and the modes -/

@[simp] theorem chooseEmpty_withSlots : (s.withSlots q).chooseEmpty = s.chooseEmpty.withSlots q := by
  unfold State.chooseEmpty
  rw [withSlots_cu]
  split
  · rfl
  · rfl
  · rfl
  · split <;> rfl

@[simp] theorem chooseAtBoundary_withSlots (x : Instance) :
    (s.withSlots q).chooseAtBoundary x = (s.chooseAtBoundary x).withSlots q := by
  unfold State.chooseAtBoundary
  rw [withSlots_cu]
  split
  · split <;> rfl
  · rfl

@[simp] theorem settleChoice_withSlots : (s.withSlots q).settleChoice = s.settleChoice.withSlots q := by
  unfold State.settleChoice
  rw [withSlots_cu, withSlots_noneDue]
  split
  · split
    · exact chooseEmpty_withSlots s q
    · exact chooseAtBoundary_withSlots s q _
  · rfl

theorem holdForSafe_withSlots (i : LoopId) : (s.withSlots q).holdForSafe i = (s.holdForSafe i).withSlots q := by
  unfold State.holdForSafe
  rw [withSlots_loop]
  split
  · exact enterHeld_withSlots s q i _
  · rfl
  · rfl

theorem claimSafe_withSlots (c : SafeCause) : (s.withSlots q).claimSafe c = (s.claimSafe c).withSlots q := by
  have hheld (t : State) : (t.withSlots q).eachLoop (fun i u => u.holdForSafe i)
      = (t.eachLoop fun i u => u.holdForSafe i).withSlots q :=
    eachLoop_withSlots t q (f := fun i u => u.holdForSafe i) fun i u => holdForSafe_withSlots u q i
  have hentered (t : State) : State.settleChoice { (t.withSlots q).eachLoop (fun i u => u.holdForSafe i) with
        cu := ((t.withSlots q).eachLoop fun i u => u.holdForSafe i).cu.flush }
      = (State.settleChoice { t.eachLoop (fun i u => u.holdForSafe i) with
        cu := (t.eachLoop fun i u => u.holdForSafe i).cu.flush }).withSlots q := by
    rw [hheld]
    generalize t.eachLoop (fun i u => u.holdForSafe i) = held
    exact settleChoice_withSlots { held with cu := held.cu.flush } q
  unfold State.claimSafe
  rw [withSlots_ctl]
  split
  · rfl
  · exact hentered (State.offerEngine { s with ctl := { s.ctl with mode := .safe, safeCause := c, safeN := .low } }
      (.safeEntered c))

theorem enterRun_withSlots : (s.withSlots q).enterRun = s.enterRun.withSlots q :=
  eachLoop_withSlots
    (State.offerEngine { s with ctl := { s.ctl with mode := .run, safeN := .high } } .runEntered) q fun _ _ => rfl

theorem holdLoop_withSlots (i : LoopId) : (s.withSlots q).holdLoop i = (s.holdLoop i).withSlots q := by
  unfold State.holdLoop
  rw [withSlots_loop, endInstance_withSlots]
  split
  · rfl
  · exact enterHeld_withSlots (s.endInstance i) q i _

theorem clearLoop_withSlots (i : LoopId) : (s.withSlots q).clearLoop i = (s.clearLoop i).withSlots q := by
  unfold State.clearLoop
  rw [withSlots_loop]
  split <;> rfl

end

/-! ## Requests -/

/-- What a request comes to, with other frames waiting in the slots. -/
def answeredWith (q : List Frame) (r : State × List Byte) : State × List Byte := (r.1.withSlots q, r.2)

section

variable (p : List Byte) (s : State) (q : List Frame)

theorem reqIdentify_withSlots : reqIdentify p (s.withSlots q) = answeredWith q (reqIdentify p s) := by
  unfold reqIdentify
  split <;> rfl

theorem reqStatus_withSlots : reqStatus p (s.withSlots q) = answeredWith q (reqStatus p s) := by
  unfold reqStatus
  split <;> rfl

theorem reqConfigure_withSlots : reqConfigure p (s.withSlots q) = answeredWith q (reqConfigure p s) := by
  unfold reqConfigure
  dsimp only
  rw [withSlots_ctl]
  split
  · rfl
  · split
    · rfl
    · split <;> rfl

theorem reqPing_withSlots : reqPing p (s.withSlots q) = answeredWith q (reqPing p s) := by
  unfold reqPing
  split <;> rfl

theorem reqEnterSafe_withSlots : reqEnterSafe p (s.withSlots q) = answeredWith q (reqEnterSafe p s) := by
  unfold reqEnterSafe
  rw [claimSafe_withSlots]
  split <;> rfl

theorem reqResume_withSlots : reqResume p (s.withSlots q) = answeredWith q (reqResume p s) := by
  unfold reqResume
  rw [enterRun_withSlots, withSlots_ctl, withSlots_linkState]
  split
  · rfl
  · split
    · rfl
    · split <;> rfl

theorem reqReset_withSlots : reqReset p (s.withSlots q) = answeredWith q (reqReset p s) := by
  unfold reqReset
  split <;> rfl

theorem reqClearCause_withSlots : reqClearCause p (s.withSlots q) = answeredWith q (reqClearCause p s) := by
  unfold reqClearCause
  split <;> rfl

theorem reqDefineLoop_withSlots : reqDefineLoop p (s.withSlots q) = answeredWith q (reqDefineLoop p s) := by
  unfold reqDefineLoop
  split
  · rfl
  · split
    · rw [withSlots_loop]
      split <;> rfl
    · rfl

/-- A mask request whose action does not look into the slots (R15). -/
theorem maskRequest_withSlots (check : LoopEntry → Option Result) {act act' : LoopMask → State → State}
    (hact : ∀ m, act m (s.withSlots q) = (act' m s).withSlots q) :
    (s.withSlots q).maskRequest p check act = answeredWith q (s.maskRequest p check act') := by
  unfold State.maskRequest
  simp only [withSlots_loop, hact]
  split
  · rfl
  · split
    · rfl
    · split <;> rfl

theorem reqArmLoop_withSlots : reqArmLoop p (s.withSlots q) = answeredWith q (reqArmLoop p s) :=
  maskRequest_withSlots p s q armCheck fun m => eachNamed_withSlots s q (fun _ _ => rfl) m

theorem reqUnholdLoop_withSlots : reqUnholdLoop p (s.withSlots q) = answeredWith q (reqUnholdLoop p s) :=
  maskRequest_withSlots p s q unholdCheck fun m => eachNamed_withSlots s q (fun _ _ => rfl) m

theorem reqHoldLoop_withSlots : reqHoldLoop p (s.withSlots q) = answeredWith q (reqHoldLoop p s) :=
  maskRequest_withSlots p s q holdCheck fun m => by
    rw [eachNamed_withSlots s q (fun i t => holdLoop_withSlots t q i), settleChoice_withSlots]

theorem reqClearLoop_withSlots : reqClearLoop p (s.withSlots q) = answeredWith q (reqClearLoop p s) :=
  maskRequest_withSlots p s q (fun _ => none) fun m => by
    rw [eachNamed_withSlots s q (fun i t => clearLoop_withSlots t q i), refreshAlert_withSlots, settleChoice_withSlots]

theorem reqReadLoop_withSlots : reqReadLoop p (s.withSlots q) = answeredWith q (reqReadLoop p s) := by
  unfold reqReadLoop
  split
  · rfl
  · split <;> rfl

theorem reqPresetLoop_withSlots : reqPresetLoop p (s.withSlots q) = answeredWith q (reqPresetLoop p s) := by
  unfold reqPresetLoop
  dsimp only
  split
  · rfl
  · split
    · rfl
    · rw [withSlots_loop]
      split
      · rfl
      · split
        · rfl
        · split
          · rfl
          · split
            · rfl
            · split <;> rfl

theorem reqLoadCoef_withSlots : reqLoadCoef p (s.withSlots q) = answeredWith q (reqLoadCoef p s) := by
  unfold reqLoadCoef
  dsimp only
  split
  · rfl
  · split
    · rfl
    · rw [withSlots_loop]
      split
      · rfl
      · split
        · rfl
        · split
          · rfl
          · split <;> rfl

theorem commit_withSlots (m : LoopMask) (f : LoopEntry → LoopEntry) :
    (s.withSlots q).commit m f = answeredWith q (s.commit m f) := by
  unfold State.commit
  rw [eachNamed_withSlots s q (fun _ _ => rfl)]
  simp only [withSlots_loop]
  split
  · rfl
  · split <;> rfl

theorem reqCommitCoef_withSlots : reqCommitCoef p (s.withSlots q) = answeredWith q (reqCommitCoef p s) := by
  unfold reqCommitCoef
  split
  · rfl
  · split
    · exact commit_withSlots s q _ _
    · exact commit_withSlots s q _ _
    · rfl

theorem reqReadCoef_withSlots : reqReadCoef p (s.withSlots q) = answeredWith q (reqReadCoef p s) := by
  unfold reqReadCoef
  simp only [withSlots_loop]
  split
  · rfl
  · split
    · rfl
    · split <;> rfl

theorem writeSlots_withSlots (now : Tick) (pairs : List (SlotId × Count)) :
    (s.withSlots q).writeSlots now pairs = (s.writeSlots now pairs).withSlots q := by
  rw [writeSlots_eq, writeSlots_eq]
  rfl

theorem reqWriteSamples_withSlots : reqWriteSamples p (s.withSlots q) = answeredWith q (reqWriteSamples p s) := by
  unfold reqWriteSamples
  simp only [writeSlots_withSlots, withSlots_time]
  split
  · rfl
  · split
    · rfl
    · split <;> rfl

theorem slotBytes_withSlots (n k : Nat) : slotBytes (s.withSlots q) n k = slotBytes s n k := by
  induction n generalizing k with
  | zero => rfl
  | succ n ih => rw [slotBytes, slotBytes, ih, withSlots_samples]

theorem reqReadSamples_withSlots : reqReadSamples p (s.withSlots q) = answeredWith q (reqReadSamples p s) := by
  unfold reqReadSamples
  simp only [slotBytes_withSlots]
  split
  · rfl
  · split <;> rfl

theorem reqReadAlarms_withSlots : reqReadAlarms p (s.withSlots q) = answeredWith q (reqReadAlarms p s) := by
  unfold reqReadAlarms
  split <;> rfl

theorem reqClearAlarms_withSlots : reqClearAlarms p (s.withSlots q) = answeredWith q (reqClearAlarms p s) := by
  unfold reqClearAlarms
  split
  · rfl
  · split
    · rfl
    · rw [eachNamed_withSlots s q (fun _ _ => rfl), refreshAlert_withSlots]
      split <;> rfl

theorem reqMaskAlarms_withSlots : reqMaskAlarms p (s.withSlots q) = answeredWith q (reqMaskAlarms p s) := by
  unfold reqMaskAlarms
  simp only [withSlots_loop]
  split
  · rfl
  · split
    · rfl
    · rw [eachNamed_withSlots s q (fun i t => remask_withSlots t q i _), refreshAlert_withSlots]
      split
      · rfl
      · split <;> rfl

end

/-- A request is judged, carried out and answered without a look at the frames that wait (R171, R173). -/
theorem judge_withSlots (f : Frame) (s : State) (q : List Frame) :
    judge f (s.withSlots q) = answeredWith q (judge f s) := by
  have hcarry : carryOut f.kind f.payload (s.withSlots q) = (carryOut f.kind f.payload s).map (answeredWith q) := by
    unfold carryOut
    split
    · exact congrArg some (reqIdentify_withSlots _ s q)
    · exact congrArg some (reqStatus_withSlots _ s q)
    · exact congrArg some (reqConfigure_withSlots _ s q)
    · exact congrArg some (reqPing_withSlots _ s q)
    · exact congrArg some (reqEnterSafe_withSlots _ s q)
    · exact congrArg some (reqResume_withSlots _ s q)
    · exact congrArg some (reqReset_withSlots _ s q)
    · exact congrArg some (reqClearCause_withSlots _ s q)
    · exact congrArg some (reqDefineLoop_withSlots _ s q)
    · exact congrArg some (reqArmLoop_withSlots _ s q)
    · exact congrArg some (reqHoldLoop_withSlots _ s q)
    · exact congrArg some (reqUnholdLoop_withSlots _ s q)
    · exact congrArg some (reqClearLoop_withSlots _ s q)
    · exact congrArg some (reqReadLoop_withSlots _ s q)
    · exact congrArg some (reqPresetLoop_withSlots _ s q)
    · exact congrArg some (reqLoadCoef_withSlots _ s q)
    · exact congrArg some (reqCommitCoef_withSlots _ s q)
    · exact congrArg some (reqReadCoef_withSlots _ s q)
    · exact congrArg some (reqWriteSamples_withSlots _ s q)
    · exact congrArg some (reqReadSamples_withSlots _ s q)
    · exact congrArg some (reqReadAlarms_withSlots _ s q)
    · exact congrArg some (reqClearAlarms_withSlots _ s q)
    · exact congrArg some (reqMaskAlarms_withSlots _ s q)
    · rfl
  unfold judge
  rw [hcarry]
  cases carryOut f.kind f.payload s <;> rfl

end Sys2Proof.Machine
end

section
/-! SUPPORT. The end of a frame: what the transmitter begins next, and the waiting request its choice makes room for
(R161, R171, R191). -/

set_option Elab.async false

namespace Sys2Proof.Machine

theorem withSlots_self {s : State} {q : List Frame} (h : s.link.slots = q) : s.withSlots q = s := by
  subst h
  rfl

theorem exec_frameEnd {s : State} (h : s.power = .running) (straps : Straps) (low : Bool) :
    exec (.frameEnd straps low) s = .next (s.frameEndEvent straps low) := by
  rw [exec, execFrameEnd, State.whenRunning, if_pos h]

/-- The transmitter idle, its frame at an end, ahead of its choice (R161). -/
def State.frameOver (s : State) : State := { s with link := { s.link with tx := .idle } }

/-- The frame of a response on the wire, with the rest of the response queue behind it (R160, R161). -/
def State.answering (s : State) (r : Response) (rest : List Response) : State :=
  { s with link := { s.link with
    responses := rest, tx := .sending (frameBytes r.kind r.tag r.payload) r.ofReset } }

/-- The oldest response begins at a frame's end, ahead of any report; then the dispatcher takes what it can (R161,
R171). -/
theorem frameEndEvent_response {s : State} {bytes : List Byte} {r : Response} {rest : List Response}
    (htx : s.link.tx = .sending bytes false) (hqueue : s.link.responses = r :: rest) (straps : Straps) (low : Bool) :
    s.frameEndEvent straps low = (s.answering r rest).dispatch := by
  rw [State.frameEndEvent, htx]
  exact congrArg State.dispatch (transmit_response (s := s.frameOver) rfl hqueue)

/-- With no response waiting the transmitter asks for a report at a frame's end (R161). -/
theorem frameEndEvent_report {s : State} {bytes : List Byte} (htx : s.link.tx = .sending bytes false)
    (hqueue : s.link.responses = []) (straps : Straps) (low : Bool) :
    s.frameEndEvent straps low = s.frameOver.startReport.dispatch := by
  rw [State.frameEndEvent, htx]
  exact congrArg State.dispatch (transmit_report (s := s.frameOver) rfl hqueue)

/-! ## The waiting request (R171) -/

theorem dispatchUpTo_busy {s : State} (h : s.dispatcherFree = false) (n : Nat) : s.dispatchUpTo n = s := by
  cases n with
  | zero => rfl
  | succ n =>
    unfold State.dispatchUpTo
    split
    · rfl
    · rw [h]
      rfl

/-- While a frame is on the wire, the response to a request taken waits, and the frames in the slots stay (R160). -/
theorem serve_withSlots {s : State} {bytes : List Byte} {b : Bool} (htx : s.link.tx = .sending bytes b) (f : Frame)
    (q : List Frame) : (s.withSlots q).serve f = (s.serve f).withSlots q := by
  obtain ⟨-, hlink, -⟩ := lineView_iff.1 (lineView_judge f s)
  have hsends : (judge f s).1.link.tx = .sending bytes b := by rw [hlink, htx]
  have hwaits (t : State) (ht : t.link.tx = .sending bytes b) (p : List Byte) :
      (t.respond f p).transmitAfterResponse = t.respond f p := by
    have hbusy : (t.respond f p).link.tx ≠ .idle := by simp [State.respond, ht]
    rw [transmitAfterResponse_uncontested (.inl hbusy)]
    exact transmit_sending ht
  rw [serve_eq, serve_eq, judge_withSlots, answeredWith, hwaits _ hsends, hwaits]
  · rfl
  · exact hsends

/-- A request taken while a frame is on the wire leaves one response more waiting (R160, R171). -/
theorem serve_responses_length {s : State} {bytes : List Byte} {b : Bool} (htx : s.link.tx = .sending bytes b)
    (f : Frame) : (s.serve f).link.responses.length = s.link.responses.length + 1 := by
  obtain ⟨-, hlink, -⟩ := lineView_iff.1 (lineView_judge f s)
  have hsends : ((judge f s).1.respond f (judge f s).2).link.tx = .sending bytes b := by
    rw [State.respond, hlink, htx]
  rw [serve_eq, transmitAfterResponse_uncontested (.inl (by rw [hsends]; nofun)), transmit_sending hsends, State.respond,
    hlink, List.length_append]
  rfl

/-- Where the response queue has room for one, the dispatcher takes the oldest waiting request, and those behind it
wait on (R171). -/
theorem dispatch_one {s : State} {bytes : List Byte} {b : Bool} (htx : s.link.tx = .sending bytes b)
    (hroom : s.link.responses.length = 3) (hpending : s.ctl.resetPending = false) {f : Frame} {waiting : List Frame}
    (hslots : s.link.slots = f :: waiting) : s.dispatch = ((s.withSlots []).serve f).withSlots waiting := by
  have hfree : s.dispatcherFree = true := dispatcherFree_iff.2 ⟨by omega, hpending⟩
  have hlength := serve_responses_length (s := s.withSlots waiting) htx f
  have hbusy : ((s.withSlots waiting).serve f).dispatcherFree = false :=
    dispatcherFree_eq_false (.inl (by rw [hlength]; exact Nat.le_of_eq (congrArg (· + 1) hroom).symm))
  have hserve : (s.withSlots waiting).serve f = ((s.withSlots []).serve f).withSlots waiting :=
    serve_withSlots (s := s.withSlots []) htx f waiting
  rw [State.dispatch, hslots, List.length_cons, State.dispatchUpTo, hslots]
  dsimp only
  rw [if_pos hfree]
  exact (dispatchUpTo_busy hbusy _).trans hserve

/-- A request row that finds the slots empty brings its frame to the dispatcher. -/
theorem exec_request_slot {s : State} {c : Instr} {fr : Frame} (hc : requestFrame c = some fr)
    (hpower : s.power = .running) : exec c (s.withSlots []) = .next (s.withSlots [fr]).dispatch := by
  have hrunning : (s.withSlots []).power = .running := hpower
  rw [exec_request hc, State.whenRunning, if_pos hrunning]
  rfl

end Sys2Proof.Machine

open Sys2Proof Sys2Proof.Machine

/-- Settles O34, by the frame that has ended and what waits behind it. -/
theorem frameEndChoosesTheNextFrame : Obligations.FrameEndChoosesTheNextFrame := by
  intro s straps low hpower sends
  rw [exec_frameEnd hpower]
  refine ⟨fun hidle => ?_, fun bytes htx => ?_, fun bytes r rest htx hqueue hslots => ?_,
    fun bytes r rest c fr htx hqueue _ hslots hc _ => ?_,
    fun bytes r rest c fr waiting htx hqueue hroom hslots hc hrun => ?_,
    fun bytes r rest htx hqueue hpending => ?_, fun bytes e u htx hqueue hslots hhold hmute htake => ?_,
    fun bytes htx hqueue hslots hnone => ?_⟩
  · rw [State.frameEndEvent, hidle]
  · rw [State.frameEndEvent, htx]
    rfl
  · rw [frameEndEvent_response htx hqueue, dispatch_nil (s := s.answering r rest) hslots]
    rfl
  · refine ⟨(s.answering r rest).dispatch, ?_, by rw [frameEndEvent_response htx hqueue]⟩
    refine (exec_request_slot (s := s.answering r rest) hc hpower).trans ?_
    rw [withSlots_self (s := s.answering r rest) hslots]
  · have hone := dispatch_one (s := (s.answering r rest).withSlots [fr]) (waiting := []) rfl hroom hrun rfl
    have hall := dispatch_one (s := s.answering r rest) rfl hroom hrun hslots
    refine ⟨_, (exec_request_slot (s := s.answering r rest) hc hpower).trans (congrArg _ hone), ?_⟩
    rw [frameEndEvent_response htx hqueue, hall]
    rfl
  · have hbusy : (s.answering r rest).dispatcherFree = false := dispatcherFree_eq_false (.inr hpending)
    rw [frameEndEvent_response htx hqueue, dispatch_busy hbusy]
    rfl
  · have hoffered : s.frameOver.reportOffered = some (e, u) := (reportOffered_eq_take hhold hmute).trans htake
    rw [frameEndEvent_report htx hqueue, startReport_some hoffered]
    exact congrArg _ (dispatch_nil hslots)
  · rw [frameEndEvent_report htx hqueue, startReport_none (s := s.frameOver) (reportOffered_none hnone)]
    exact congrArg _ (dispatch_nil hslots)
end


section
/-! SUPPORT. The codes of 10.2, and CONFIGURE on a payload of its layout (R178). -/

set_option Elab.async false

namespace Sys2Proof.Machine

/-! ## The codes of 10.2 -/

/-- A selector of neither bank names none (10.2). -/
theorem bank?_eq_none {l : LoopEntry} {b : Byte} (h : 1 < b.toNat) : l.bank? b = none := by
  unfold LoopEntry.bank?
  split
  · omega
  · omega
  · rfl

/-- The codes of 10.2: each part of `EnumCodes` is read off its encoding. -/
theorem enumCodes : EnumCodes :=
  ⟨rfl, fun _ _ => rfl, rfl, fun _ => rfl, rfl, rfl, rfl, rfl, rfl, rfl, rfl, rfl, rfl, rfl, rfl, rfl,
    fun c _ => by cases c <;> rfl, by decide, fun _ => rfl, rfl, rfl, fun _ _ _ _ _ _ => rfl, fun _ _ => ⟨rfl, rfl⟩,
    fun _ _ => ⟨rfl, rfl, bank?_eq_none⟩⟩

/-! ## CONFIGURE (R178) -/

/-- A field of CONFIGURE lies outside its range exactly where the check refuses it (R178, R79). -/
theorem configureLegal_eq_false {n window limit : Byte} {interval timeout : BitVec 16} :
    configureLegal n.toNat interval.toNat window.toNat timeout.toNat limit.toNat = false ↔
      n = 0 ∨ 200 < n.toNat ∨ 60000 < interval.toNat ∨ 16 < window.toNat ∨ timeout = 0 ∨ 1000 < timeout.toNat
        ∨ 7 < limit.toNat := by
  have hn : n = 0 ↔ n.toNat = 0 := BitVec.toNat_eq
  have ht : timeout = 0 ↔ timeout.toNat = 0 := BitVec.toNat_eq
  rw [← Bool.not_eq_true, configureLegal, hn, ht]
  simp only [Bool.and_eq_true, decide_eq_true_eq]
  omega

/-- A CONFIGURE payload, field by field in the order of its layout (10.3). -/
def configureBytes (n : Byte) (interval : BitVec 16) (window : Byte) (timeout : BitVec 16) (limit : Byte) : List Byte :=
  [n] ++ bytes16 interval ++ [window] ++ bytes16 timeout ++ [limit]

/-- CONFIGURE on a payload of its layout: the ranges, then the mode, then the five settings (R178). -/
theorem reqConfigure_bytes (s : State) (n window limit : Byte) (interval timeout : BitVec 16) :
    reqConfigure (configureBytes n interval window timeout limit) s =
    if configureLegal n.toNat interval.toNat window.toNat timeout.toNat limit.toNat = false then refuse s .badField
    else if s.ctl.mode = .run then refuse s .mode
    else accept (s.configure n.toNat interval.toNat window.toNat timeout.toNat limit.toNat) [] := by
  have hlength : (configureBytes n interval window timeout limit).length = 7 := rfl
  have hinterval : word16At (configureBytes n interval window timeout limit) 1 = interval := extract_append_16 interval
  have htimeout : word16At (configureBytes n interval window timeout limit) 4 = timeout := extract_append_16 timeout
  rw [reqConfigure, if_neg (not_ne_iff.2 hlength), hinterval, htimeout]
  rfl

/-- The five settings stored, with the supervision timer at the new interval (R178, R187). -/
theorem configure_eq (s : State) (n window timeout limit : Nat) (interval : BitVec 16) :
    s.configure n interval.toNat window timeout limit = { s with
      time := { s.time with tickLength := n }
      ctl := { s.ctl with
        supInterval := interval.toNat
        supTimer := if interval = 0 then none else some interval.toNat }
      rep := { s.rep with defaultWindow := window, retryTimeout := timeout, retryLimit := limit } } := by
  have hzero : interval = 0 ↔ interval.toNat = 0 := BitVec.toNat_eq
  simp only [State.configure, ModeController.restartSupervision, hzero]

end Sys2Proof.Machine

open Sys2Proof Sys2Proof.Machine

/-- Settles O1, by the queue: its front command with its rest, or nothing. -/
theorem stepCarriesOutTheFrontCommand : Obligations.StepCarriesOutTheFrontCommand := by
  refine fun s => ⟨fun c rest h => ?_, fun h => ?_⟩
  · rw [step, h]
    rfl
  · rw [step, h]

/-- Settles O5: both rows in an accepting state, each with an empty payload. -/
theorem identifyAndClearCauseAnswer : Obligations.IdentifyAndClearCauseAnswer :=
  ⟨fun _ tag hs => exec_identify hs tag [], fun _ tag hs => exec_clearCause hs tag []⟩

/-- Settles O6: the codes of 10.2, and the answer of STATUS laid out byte by byte, each field read at its place. -/
theorem pingAndStatusReadTheEngine : Obligations.PingAndStatusReadTheEngine := by
  refine ⟨enumCodes, fun s tag hs => exec_ping hs tag [], fun s tag hs =>
    ⟨0x00 :: statusBytes s, exec_status hs tag [], ?_⟩⟩
  simp only [statusBytes, natBytes16, bytes16, bytes32, List.cons_append, List.nil_append]
  refine ⟨rfl, rfl, ?_, ?_, ?_, rfl,
    extract_append_16 _, extract_append_16 _, extract_append_16 _, extract_append_16 _, extract_append_16 _,
    extract_append_16 _, ?_, rfl,
    extract_append_32 _, rfl, extract_append_16 _, rfl, rfl, extract_append_16 _, rfl,
    rfl, congrArg natByte s.rep.holding_eq, extract_append_16 _, rfl, rfl⟩
  · change s.ctl.mode.toByte = _
    cases s.ctl.mode <;> rfl
  · change s.ctl.safeCause.toByte = _
    cases s.ctl.safeCause <;> rfl
  · change s.link.state.toByte = _
    cases s.link.state <;> rfl
  · change s.ctl.resetCause.toByte = _
    cases s.ctl.resetCause <;> rfl

/-- Settles O7, check by check in the order of R178: the ranges, the mode, and the settings stored. -/
theorem configureStoresItsFiveSettings : Obligations.ConfigureStoresItsFiveSettings := by
  intro s tag n window limit interval timeout hs p bad
  have hreq : reqConfigure p s = _ := reqConfigure_bytes s n window limit interval timeout
  have hexec {t : State} {payload : List Byte} (h : reqConfigure p s = (t, payload)) :
      exec (.configure tag p) s = .next (t.reply 0x83 tag payload) := by
    rw [exec_configure hs, h]
  refine ⟨fun hbad => ?_, fun hok hrun => ?_, fun hok hsafe => ?_⟩
  · exact hexec (hreq.trans (if_pos (configureLegal_eq_false.2 hbad)))
  · exact hexec (hreq.trans ((if_neg (mt configureLegal_eq_false.1 hok)).trans (if_pos hrun)))
  · have hnotRun : s.ctl.mode ≠ .run := by
      rw [hsafe]
      nofun
    rw [if_neg (mt configureLegal_eq_false.1 hok), if_neg hnotRun, configure_eq] at hreq
    exact hexec hreq
end

section
/-! SUPPORT. Refusals that no state decides: kinds that are no request, and lengths that 10.3 does not give (R172,
R173). -/

set_option Elab.async false

namespace Sys2Proof.Machine

/-! ## Kinds that are no request (R172) -/

/-- The dispatcher carries out the request kinds alone (R172). -/
theorem carryOut_unknown {kind : Byte} (h : kind ∉ requestKinds) (p : List Byte) (s : State) :
    carryOut kind p s = none := by
  have hcode {n : Nat} (hn : BitVec.ofNat 8 n ∈ requestKinds) : kind.toNat ≠ n := by
    rintro rfl
    rw [BitVec.ofNat_toNat, BitVec.setWidth_eq] at hn
    exact h hn
  unfold carryOut
  split
  case h_24 => rfl
  all_goals next hk => exact absurd hk (hcode (by decide))

theorem judge_unknown {fr : Frame} (h : fr.kind ∉ requestKinds) (s : State) : judge fr s = refuse s .badKind := by
  rw [judge, carryOut_unknown h]

/-! ## Lengths that 10.3 does not give (R173) -/

section
variable {kind : Byte} {p : List Byte}

theorem judge_noFields_badLength (hk : kind ∈ [0x01, 0x02, 0x04, 0x05, 0x06, 0x07, 0x08, 0x28]) (hp : p.length ≠ 0)
    (tag : Byte) (s : State) : judge ⟨kind, tag, p⟩ s = refuse s .badLength := by
  simp only [List.mem_cons, List.not_mem_nil, or_false] at hk
  rcases hk with rfl | rfl | rfl | rfl | rfl | rfl | rfl | rfl <;> exact if_pos hp

theorem judge_twoBytes_badLength (hk : kind ∈ [0x1A, 0x21]) (hp : p.length ≠ 2)
    (tag : Byte) (s : State) : judge ⟨kind, tag, p⟩ s = refuse s .badLength := by
  simp only [List.mem_cons, List.not_mem_nil, or_false] at hk
  rcases hk with rfl | rfl <;> exact if_pos hp

/-- A request of a loop mask alone (R15). -/
theorem judge_mask_badLength (hk : kind ∈ [0x11, 0x12, 0x13, 0x14]) (hp : p.length ≠ 2) (tag : Byte) (s : State) :
    judge ⟨kind, tag, p⟩ s = refuseMask s .badLength 0 := by
  simp only [List.mem_cons, List.not_mem_nil, or_false] at hk
  rcases hk with rfl | rfl | rfl | rfl <;> exact if_pos hp

/-- A request of a loop mask and one byte more (R56, R124, R125). -/
theorem judge_maskAndByte_badLength (hk : kind ∈ [0x19, 0x29, 0x2A]) (hp : p.length ≠ 3) (tag : Byte) (s : State) :
    judge ⟨kind, tag, p⟩ s = refuseMask s .badLength 0 := by
  simp only [List.mem_cons, List.not_mem_nil, or_false] at hk
  rcases hk with rfl | rfl | rfl <;> exact if_pos hp

end

/-! ## The response to a refusal -/

theorem answersReset_of_kind {fr : Frame} (h : fr.kind ≠ 0x07) : answersReset fr = false :=
  Bool.and_eq_false_iff.2 (.inl (beq_eq_false_iff_ne.2 h))

theorem answersReset_of_payload {fr : Frame} (h : fr.payload.length ≠ 0) : answersReset fr = false :=
  Bool.and_eq_false_iff.2 (.inr (List.isEmpty_eq_false_iff.2 (List.length_eq_zero_iff.not.1 h)))

/-- A request that is refused changes nothing: its response alone, under its kind with the high bit set (R172, R173). -/
theorem exec_refused {c : Instr} {fr : Frame} (hc : requestFrame c = some fr) {s : State} (hs : s.Accepting)
    {payload : List Byte} (hj : judge fr s = (s, payload)) (hreset : answersReset fr = false) :
    exec c s = .next (s.reply (fr.kind ||| 0x80) fr.tag payload) := by
  rw [exec_accepting hc hs, hj, hreset]
  rfl

end Sys2Proof.Machine

open Sys2Proof Sys2Proof.Machine

/-- Settles O23: a kind that is no request falls through the dispatcher's kinds, and of the others each checks its
length first. -/
theorem unknownKindsAndWrongLengthsAreRefused : Obligations.UnknownKindsAndWrongLengthsAreRefused := by
  refine ⟨fun s kind tag p hs hkind => ?_, fun s c ⟨kind, tag, p⟩ hs hc => ⟨?_, ?_⟩⟩
  · have hnot7 : kind ≠ 0x07 := by
      rintro rfl
      exact hkind (by decide)
    exact exec_refused (fr := ⟨kind, tag, p⟩) rfl hs (judge_unknown hkind s) (answersReset_of_kind hnot7)
  · have hplain {k : Byte} (hk : kind = k) (hne : k ≠ 0x07) (hj : judge ⟨k, tag, p⟩ s = refuse s .badLength) :
        exec c s = .next (s.reply (kind ||| 0x80) tag [0x02]) := by
      subst hk
      exact exec_refused hc hs hj (answersReset_of_kind hne)
    rintro (⟨hk, hn⟩ | ⟨hk, hn⟩ | ⟨hk, hn⟩ | ⟨hk, hn⟩ | ⟨hk, hn⟩ | ⟨hk, hn⟩ | ⟨hk, hn⟩ | ⟨hk, hn⟩)
    · exact exec_refused hc hs (judge_noFields_badLength hk hn tag s) (answersReset_of_payload hn)
    · exact hplain hk (by decide) (if_pos hn)
    · exact hplain hk (by decide) (if_pos hn)
    · exact hplain hk (by decide) (if_pos hn)
    · exact hplain hk (by decide) (if_pos hn)
    · exact hplain hk (by decide) (if_pos hn)
    · exact hplain rfl (ne_of_mem_of_not_mem hk (by decide)) (judge_twoBytes_badLength hk hn tag s)
    · exact hplain hk (by decide) (if_pos hn)
  · rintro (⟨hk, hn⟩ | ⟨hk, hn⟩)
    · exact exec_refused hc hs (judge_mask_badLength hk hn tag s)
        (answersReset_of_kind (ne_of_mem_of_not_mem hk (by decide)))
    · exact exec_refused hc hs (judge_maskAndByte_badLength hk hn tag s)
        (answersReset_of_kind (ne_of_mem_of_not_mem hk (by decide)))
end

section
/-! SUPPORT. No operation of the part reaches the queue of waiting commands (log entry 21), from the loops up to the
commands. -/

set_option Elab.async false

namespace Sys2Proof.Machine

/-! ## Loop by loop -/

/-- A change of the report unit and the loop table alone leaves the queue. -/
theorem pending_of_only {s t : State} (h : ∃ u ls, t = { s with rep := u, loops := ls }) : t.pending = s.pending := by
  obtain ⟨u, ls, rfl⟩ := h
  rfl

namespace State

@[simp] theorem eachLoop_pending {f : LoopId → State → State} (hf : ∀ i t, (f i t).pending = t.pending) (s : State) :
    (s.eachLoop f).pending = s.pending :=
  eachLoop_keeps (P := fun t => t.pending = s.pending) (fun i t ht => (hf i t).trans ht) rfl

@[simp] theorem eachNamed_pending {f : LoopId → State → State} (hf : ∀ i t, (f i t).pending = t.pending) (s : State)
    (m : LoopMask) : (s.eachNamed m f).pending = s.pending :=
  eachLoop_pending (fun i t => by
    split
    · exact hf i t
    · rfl) s

/-! ## Reports, alarms and the computation unit -/

@[simp] theorem produceOutput_pending (s : State) (r : OutputReport) : (s.produceOutput r).pending = s.pending :=
  pending_of_only (produceOutput_only s r)

@[simp] theorem safeOutput_pending (s : State) (i : LoopId) : (s.safeOutput i).pending = s.pending :=
  pending_of_only (safeOutput_only s i)

@[simp] theorem offerAlarm_pending (s : State) (i : LoopId) (f : FlagSet) : (s.offerAlarm i f).pending = s.pending :=
  pending_of_only (offerAlarm_only s i f)

@[simp] theorem remask_pending (s : State) (i : LoopId) (f : FlagSet) : (s.remask i f).pending = s.pending :=
  pending_of_only (remask_only s i f)

@[simp] theorem enterHeld_pending (s : State) (i : LoopId) (f : LoopEntry → LoopEntry) :
    (s.enterHeld i f).pending = s.pending :=
  pending_of_only (enterHeld_only s i f)

@[simp] theorem handAlarms_pending (s : State) (i : LoopId) (f : FlagSet) : (s.handAlarms i f).pending = s.pending := by
  obtain ⟨u, ls, a, h⟩ := handAlarms_only s i f
  rw [h]

@[simp] theorem settleChoice_pending (s : State) : s.settleChoice.pending = s.pending := by
  obtain ⟨u, ls, h⟩ := settleChoice_only s
  rw [h]

@[simp] theorem admitOwed_pending (s : State) : s.admitOwed.pending = s.pending := by
  have hturn (i : LoopId) (t : State) : (admitTurn i t).pending = t.pending := by
    unfold admitTurn
    split
    · exact offerAlarm_pending t i _
    · rfl
  rw [admitOwed_eq, admitAlarmOwed_eq, eachLoop_pending hturn]
  rfl

/-! ## The mode controller and the link -/

@[simp] theorem claimSafe_pending (s : State) (c : SafeCause) : (s.claimSafe c).pending = s.pending := by
  obtain ⟨k, ls, u, cu, h⟩ := claimSafe_only s c
  rw [h]

@[simp] theorem enterRun_pending (s : State) : s.enterRun.pending = s.pending := by
  rw [enterRun, eachLoop_modLoop]
  rfl

@[simp] theorem changeLec_pending (s : State) (lec : BitVec 8) : (s.changeLec lec).pending = s.pending := by
  obtain ⟨k, ls, u, cu, h⟩ := changeLec_only s lec
  rw [h]

@[simp] theorem transmit_pending (s : State) : s.transmit.pending = s.pending := by
  obtain ⟨u, q, tx, h⟩ := transmit_only s
  rw [h]

@[simp] theorem transmitAfterResponse_pending (s : State) : s.transmitAfterResponse.pending = s.pending := by
  obtain ⟨u, q, tx, n, h⟩ := transmitAfterResponse_only s
  rw [h]

/-! ## Releases, ticks and stages -/

@[simp] theorem faultLoop_pending (s : State) (i : LoopId) (f : FlagSet) : (s.faultLoop i f).pending = s.pending := by
  simp [faultLoop]

@[simp] theorem missRelease_pending (s : State) (i : LoopId) (d : Definition) :
    (s.missRelease i d).pending = s.pending := by
  unfold missRelease
  dsimp only
  split <;> simp

@[simp] theorem takeRelease_pending (s : State) (i : LoopId) (d : Definition) (stale : Bool) :
    (s.takeRelease i d stale).pending = s.pending := by
  unfold takeRelease
  dsimp only
  split <;> simp

@[simp] theorem releaseSteps_pending (s : State) (i : LoopId) (d : Definition) :
    (s.releaseSteps i d).pending = s.pending := by
  unfold releaseSteps
  split
  · exact missRelease_pending s i d
  · split
    · split
      · exact takeRelease_pending s i d true
      · simp [skipRelease]
      · exact faultLoop_pending s i _
    · exact takeRelease_pending s i d false

@[simp] theorem releaseEvent_pending (s : State) (i : LoopId) : (s.releaseEvent i).pending = s.pending := by
  unfold releaseEvent
  split <;> simp

@[simp] theorem tickEvent_pending (s : State) : s.tickEvent.pending = s.pending := settleChoice_pending _

@[simp] theorem takeDueReleases_pending (s : State) : s.takeDueReleases.pending = s.pending :=
  eachLoop_pending (fun i t => releaseEvent_pending t i) s

@[simp] theorem completionOutput_pending (s : State) (i : LoopId) (d : Definition) (x : Instance) (m : Marks) :
    (s.completionOutput i d x m).pending = s.pending := by
  unfold completionOutput
  dsimp only
  split <;> simp

@[simp] theorem stageEnded_pending (s : State) (x : Instance) (d : Definition) (st : StageDesc) :
    (s.stageEnded x d st).pending = s.pending := by
  unfold stageEnded
  dsimp only
  split
  · simp
  · split
    · simp [complete]
    · rfl

@[simp] theorem stageCompletion_pending (s : State) : s.stageCompletion.pending = s.pending := by
  unfold stageCompletion
  split
  · dsimp only
    rw [transmit_pending, settleChoice_pending]
    split
    · rfl
    · split
      · rfl
      · exact stageEnded_pending s _ _ _
  · rfl

end State

/-! ## Requests -/

open State

theorem maskRequest_pending {s : State} (p : List Byte) (check : LoopEntry → Option Result)
    {act : LoopMask → State → State} (hact : ∀ m, (act m s).pending = s.pending) :
    (s.maskRequest p check act).1.pending = s.pending := by
  rcases maskRequest_cases s p check act with h | ⟨h, -⟩ <;> rw [h]
  exact hact _

theorem holdLoop_pending (s : State) (i : LoopId) : (s.holdLoop i).pending = s.pending := by
  unfold State.holdLoop
  split <;> simp

theorem clearLoop_pending (s : State) (i : LoopId) : (s.clearLoop i).pending = s.pending := by
  unfold State.clearLoop
  split <;> rfl

theorem commit_pending (s : State) (m : LoopMask) (f : LoopEntry → LoopEntry) :
    (s.commit m f).1.pending = s.pending := by
  unfold State.commit
  split
  · rfl
  · split
    · rfl
    · rw [eachNamed_modLoop]
      rfl

theorem writeSlots_pending (s : State) (now : Tick) (pairs : List (SlotId × Count)) :
    (s.writeSlots now pairs).pending = s.pending := by
  rw [writeSlots_eq]

theorem reqDefineLoop_pending (p : List Byte) (s : State) : (reqDefineLoop p s).1.pending = s.pending := by
  unfold reqDefineLoop
  split
  · rfl
  · split
    · split <;> rfl
    · rfl

theorem reqHoldLoop_pending (p : List Byte) (s : State) : (reqHoldLoop p s).1.pending = s.pending :=
  maskRequest_pending p holdCheck fun m =>
    (State.settleChoice_pending _).trans (eachNamed_pending (fun i t => holdLoop_pending t i) s m)

theorem reqClearLoop_pending (p : List Byte) (s : State) : (reqClearLoop p s).1.pending = s.pending :=
  maskRequest_pending p (fun _ => none) fun m =>
    ((State.settleChoice_pending _).trans (refreshAlert_pending _)).trans
      (eachNamed_pending (fun i t => clearLoop_pending t i) s m)

theorem reqCommitCoef_pending (p : List Byte) (s : State) : (reqCommitCoef p s).1.pending = s.pending := by
  unfold reqCommitCoef
  split
  · rfl
  · split
    · exact commit_pending s _ _
    · exact commit_pending s _ _
    · rfl

theorem reqWriteSamples_pending (p : List Byte) (s : State) : (reqWriteSamples p s).1.pending = s.pending := by
  unfold reqWriteSamples
  dsimp only
  split
  · rfl
  · split
    · rfl
    · split
      · rfl
      · next pairs _ => exact writeSlots_pending s _ pairs

theorem reqConfigure_pending (p : List Byte) (s : State) : (reqConfigure p s).1.pending = s.pending := by
  unfold reqConfigure
  dsimp only
  split
  · rfl
  · split
    · rfl
    · split <;> rfl

theorem reqEnterSafe_pending (p : List Byte) (s : State) : (reqEnterSafe p s).1.pending = s.pending := by
  unfold reqEnterSafe
  split
  · rfl
  · exact claimSafe_pending s .host

theorem reqResume_pending (p : List Byte) (s : State) : (reqResume p s).1.pending = s.pending := by
  unfold reqResume
  split
  · rfl
  · split
    · rfl
    · split
      · rfl
      · exact enterRun_pending s

theorem reqReset_pending (p : List Byte) (s : State) : (reqReset p s).1.pending = s.pending := by
  unfold reqReset
  split <;> rfl

theorem reqClearCause_pending (p : List Byte) (s : State) : (reqClearCause p s).1.pending = s.pending := by
  unfold reqClearCause
  split <;> rfl

theorem reqClearAlarms_pending (p : List Byte) (s : State) : (reqClearAlarms p s).1.pending = s.pending := by
  unfold reqClearAlarms
  split
  · rfl
  · split
    · rfl
    · split
      · rfl
      · exact (refreshAlert_pending _).trans (eachNamed_pending (fun _ _ => modLoop_pending _ _ _) s _)

theorem reqMaskAlarms_pending (p : List Byte) (s : State) : (reqMaskAlarms p s).1.pending = s.pending := by
  unfold reqMaskAlarms
  split
  · rfl
  · split
    · rfl
    · split
      · rfl
      · split
        · rfl
        · exact (refreshAlert_pending _).trans (eachNamed_pending (fun i t => remask_pending t i _) s _)

/-- A request carried out leaves the queue of commands, whatever its kind and payload. -/
theorem judge_pending (f : Frame) (s : State) : (judge f s).1.pending = s.pending := by
  obtain ⟨h1, h2, h3, h4, h5, h6, h7⟩ := reqReads_only f.payload s
  unfold judge carryOut
  split
  · next r hr =>
    split at hr <;> cases hr
    · rw [h1]
    · rw [h2]
    · exact reqConfigure_pending _ s
    · rw [h3]
    · exact reqEnterSafe_pending _ s
    · exact reqResume_pending _ s
    · exact reqReset_pending _ s
    · exact reqClearCause_pending _ s
    · exact reqDefineLoop_pending _ s
    · exact maskRequest_pending _ armCheck fun m => eachNamed_pending (fun _ _ => modLoop_pending _ _ _) s m
    · exact reqHoldLoop_pending _ s
    · exact maskRequest_pending _ unholdCheck fun m => eachNamed_pending (fun _ _ => modLoop_pending _ _ _) s m
    · exact reqClearLoop_pending _ s
    · rw [h4]
    · rcases presetLoop_cases f.payload s with h | ⟨i, v, ws, h⟩ <;> rw [h]
      rfl
    · rcases loadCoef_cases f.payload s with h | ⟨i, k, c, h⟩ <;> rw [h]
      rfl
    · exact reqCommitCoef_pending _ s
    · rw [h5]
    · exact reqWriteSamples_pending _ s
    · rw [h6]
    · rw [h7]
    · exact reqClearAlarms_pending _ s
    · exact reqMaskAlarms_pending _ s
  · rfl

theorem serve_pending (s : State) (f : Frame) : (s.serve f).pending = s.pending :=
  (transmitAfterResponse_pending _).trans (judge_pending f s)

theorem dispatchUpTo_pending (s : State) (n : Nat) : (s.dispatchUpTo n).pending = s.pending := by
  induction n generalizing s with
  | zero => rfl
  | succ n ih =>
    unfold State.dispatchUpTo
    split
    · rfl
    · split
      · exact (ih _).trans (serve_pending _ _)
      · rfl

@[simp] theorem dispatch_pending (s : State) : s.dispatch.pending = s.pending := dispatchUpTo_pending s _

@[simp] theorem submit_pending (s : State) (kind tag : Byte) (p : List Byte) :
    (s.submit kind tag p).pending = s.pending := by
  refine (dispatch_pending _).trans ?_
  unfold State.placeInSlot
  split <;> rfl

/-! ## The line -/

theorem raiseLec_pending (s : State) (n : Nat) : (s.raiseLec n).pending = s.pending := changeLec_pending s _

/-- A line error of any kind: HUNT, its counter, a raise of the LEC and the transmitter's choice (R155 to R157). -/
theorem lineError_pending (s : State) (f : LinkCounters → LinkCounters) (n : Nat) :
    ((s.toHunt.modCounters f).raiseLec n).transmit.pending = s.pending :=
  (transmit_pending _).trans (raiseLec_pending _ n)

@[simp] theorem framingErrorEvent_pending (s : State) : s.framingErrorEvent.pending = s.pending := by
  unfold State.framingErrorEvent
  split
  · rfl
  · exact lineError_pending s _ 4

theorem arrive_pending (s : State) (kind : Byte) : (s.arrive kind).pending = s.pending := by
  unfold State.arrive
  dsimp only
  split
  · rfl
  · exact changeLec_pending _ _

theorem passAck_pending (s : State) (p : List Byte) : (s.passAck p).pending = s.pending := by
  unfold State.passAck
  split
  · rfl
  · unfold State.acknowledge
    split
    · rfl
    · dsimp only
      rw [admitOwed_pending]

@[simp] theorem goodFrame_pending (s : State) (kind tag : Byte) (p : List Byte) :
    (s.goodFrame kind tag p).pending = s.pending := by
  unfold State.goodFrame
  split
  · rw [transmit_pending, passAck_pending, arrive_pending]
  · rw [transmit_pending, submit_pending, arrive_pending]

theorem receiveByte_pending (s : State) (b : Byte) : (s.receiveByte b).pending = s.pending := by
  unfold State.receiveByte
  split
  · split <;> rfl
  · rfl
  · rfl
  · unfold State.lengthByte
    split
    · exact lineError_pending s _ 8
    · split <;> rfl
  · dsimp only
    split <;> rfl
  · rfl
  · unfold State.frameEnded
    split
    · exact goodFrame_pending s _ _ _
    · exact lineError_pending s _ 8

theorem dropFirst_pending (s : State) : s.dropFirst.pending = s.pending := by
  unfold State.dropFirst
  dsimp only
  rw [offerEngine_pending, admitOwed_pending, raiseLec_pending]

theorem retryExpiry_pending (s : State) : s.retryExpiry.pending = s.pending := by
  unfold State.retryExpiry
  dsimp only
  rw [transmit_pending]
  dsimp only
  split
  · exact dropFirst_pending _
  · rfl

theorem breakEffects_pending (s : State) : s.breakEffects.pending = s.pending := by
  unfold State.breakEffects
  dsimp only
  split <;> rfl

theorem breakEvent_pending (s : State) (straps : Straps) : (s.breakEvent straps).pending = s.pending := by
  unfold State.breakEvent
  split
  · rfl
  · split
    · exact breakEffects_pending s
    · exact (transmit_pending _).trans (breakEffects_pending s)

theorem frameEndEvent_pending (s : State) (straps : Straps) (low : Bool) :
    (s.frameEndEvent straps low).pending = s.pending := by
  unfold State.frameEndEvent
  split
  · rfl
  · rfl
  · exact (dispatch_pending _).trans (transmit_pending _)

/-! ## The commands -/

/-- A command answers a next state, with the queue of commands as it was. -/
def AnswersNext (s : State) (o : Host.Outcome State Fault Refusal) : Prop := ∃ t, o = .next t ∧ t.pending = s.pending

theorem answersNext_whenRunning (s : State) {f : State → State} (hf : ∀ t, (f t).pending = t.pending) :
    AnswersNext s (s.whenRunning f) := by
  refine ⟨_, rfl, ?_⟩
  split
  · exact hf s
  · rfl

theorem answersNext_whenTaking (s : State) {f : State → State} (hf : ∀ t, (f t).pending = t.pending) :
    AnswersNext s (s.whenTaking f) :=
  answersNext_whenRunning s fun t => by
    split
    · exact hf t
    · rfl

theorem answersNext_exec (c : Instr) (s : State) : AnswersNext s (exec c s) := by
  cases hc : requestFrame c with
  | some fr =>
    rw [exec_request hc]
    exact answersNext_whenRunning s fun t => submit_pending t _ _ _
  | none =>
    cases c <;> simp only [requestFrame, reduceCtorEq] at hc
    case reportAck tag p => exact answersNext_whenTaking s fun t => goodFrame_pending t _ tag p
    case goodFrame kind tag p => exact answersNext_whenTaking s fun t => goodFrame_pending t kind tag p
    case crcError => exact answersNext_whenTaking s fun t => lineError_pending t _ 8
    case lengthError => exact answersNext_whenTaking s fun t => lineError_pending t _ 8
    case framingError data =>
      unfold exec execFramingError
      refine answersNext_whenTaking s fun t => ?_
      split
      · rfl
      · exact framingErrorEvent_pending t
    case gapTimerExpiry =>
      unfold exec execGapTimerExpiry
      refine answersNext_whenRunning s fun t => ?_
      split
      · exact lineError_pending t _ 4
      · rfl
    case lineBreak straps => exact answersNext_whenRunning s fun t => breakEvent_pending t straps
    case startUpHoldEnd =>
      unfold exec execStartUpHoldEnd
      refine answersNext_whenTaking s fun t => ?_
      split
      · exact transmit_pending _
      · rfl
    case powerOnReset straps => exact ⟨_, rfl, rfl⟩
    case pinReset straps => exact ⟨_, rfl, rfl⟩
    case startUp low =>
      refine ⟨_, rfl, ?_⟩
      split <;> rfl
    case frameEnd straps low => exact answersNext_whenRunning s fun t => frameEndEvent_pending t straps low
    case tick =>
      unfold exec execTick
      exact answersNext_whenRunning s fun t => (tickEvent_pending t.takeDueReleases).trans (takeDueReleases_pending t)
    case release i => exact answersNext_whenRunning s fun t => releaseEvent_pending t i
    case stageCompletion => exact answersNext_whenRunning s stageCompletion_pending
    case retryTimerExpiry =>
      unfold exec execRetryTimerExpiry
      refine answersNext_whenRunning s fun t => ?_
      split
      · exact retryExpiry_pending t
      · rfl
    case supervisionExpiry =>
      unfold exec execSupervisionExpiry
      refine answersNext_whenRunning s fun t => ?_
      split
      · exact (transmit_pending _).trans (claimSafe_pending t .supervision)
      · rfl
    case byteReceived b => exact answersNext_whenTaking s fun t => receiveByte_pending t b
    case rxdReturnsHigh =>
      unfold exec execRxdReturnsHigh
      refine answersNext_whenRunning s fun t => ?_
      dsimp only
      split
      · exact framingErrorEvent_pending _
      · rfl

end Sys2Proof.Machine

open Sys2Proof Sys2Proof.Machine

/-- Settles O2, command by command: each row is a function of a running part, and no operation behind it reaches the
queue of commands. -/
theorem everyCommandAnswersNext : Obligations.EveryCommandAnswersNext := answersNext_exec
end

section
/-! SUPPORT. The entry to SAFE: the loops held one after another are one change of the loop table with the reports in
order behind it, and the choice behind the entry touches the unit's state alone (R24, R25, R115, R183). -/

namespace Sys2Proof.Machine

/-! ## The SAFE-marked reports of several loops -/

/-- OUTPUT offers change the report unit and the loop table (R135). -/
theorem foldl_offerOutput_only (rs : List OutputReport) (s : State) :
    ∃ u ls, rs.foldl State.offerOutput s = { s with rep := u, loops := ls } := by
  induction rs generalizing s with
  | nil => exact ⟨_, _, rfl⟩
  | cons r rest ih =>
    obtain ⟨u, ls, h⟩ := offerOutput_only s r
    obtain ⟨u', ls', h'⟩ := ih (s.offerOutput r)
    exact ⟨u', ls', by rw [List.foldl_cons, h', h]⟩

/-- OUTPUT offers leave the mode controller, so it may be set before or after them. -/
theorem foldl_offerOutput_ctl (rs : List OutputReport) (s : State) (k : ModeController) :
    rs.foldl State.offerOutput { s with ctl := k } = { rs.foldl State.offerOutput s with ctl := k } := by
  have hone (t : State) (r : OutputReport) :
      State.offerOutput { t with ctl := k } r = { t.offerOutput r with ctl := k } := by
    unfold State.offerOutput
    dsimp only
    split <;> rfl
  induction rs generalizing s with
  | nil => rfl
  | cons r rest ih => rw [List.foldl_cons, List.foldl_cons, hone, ih]

/-- OUTPUT offers leave of every loop entry all but its statistics (R135). -/
theorem foldl_offerOutput_loop (rs : List OutputReport) (s : State) (j : LoopId) :
    ∃ st, (rs.foldl State.offerOutput s).loop j = { s.loop j with stats := st } := by
  induction rs generalizing s with
  | nil => exact ⟨_, rfl⟩
  | cons r rest ih =>
    obtain ⟨st, h⟩ := ih (s.offerOutput r)
    rw [List.foldl_cons, h]
    rcases offerOutput_loop s r j with hr | ⟨-, hr⟩ <;> exact ⟨st, by rw [hr]⟩

/-- OUTPUT offers leave every loop that is none of theirs (R135). -/
theorem foldl_offerOutput_loop_ne {rs : List OutputReport} {j : LoopId} (h : ∀ r ∈ rs, r.loop ≠ j) (s : State) :
    (rs.foldl State.offerOutput s).loop j = s.loop j := by
  induction rs generalizing s with
  | nil => rfl
  | cons r rest ih =>
    obtain ⟨hr, hrest⟩ := List.forall_mem_cons.1 h
    rw [List.foldl_cons, ih hrest]
    exact (offerOutput_loop s r j).resolve_right fun ⟨e, _⟩ => hr e.symm

theorem holdLoops_only (s : State) (after : LoopId → LoopEntry) :
    ∃ u ls, s.holdLoops after = { s with rep := u, loops := ls } := by
  obtain ⟨u, ls, h⟩ := foldl_offerOutput_only ((List.finRange 16).filterMap (s.holdReport after))
    { s with loops := Vector.ofFn fun i => (after i).reported (s.holdReport after i) }
  exact ⟨u, ls, h⟩

theorem holdLoops_ctl (s : State) (after : LoopId → LoopEntry) (k : ModeController) :
    State.holdLoops { s with ctl := k } after = { s.holdLoops after with ctl := k } :=
  foldl_offerOutput_ctl _ { s with loops := Vector.ofFn fun i => (after i).reported (s.holdReport after i) } k

/-- Of the entry `after` gives a loop, the reports change the last-reported value and the statistics (R24, R134,
R135). -/
theorem holdLoops_loop (s : State) (after : LoopId → LoopEntry) (j : LoopId) :
    ∃ v st, (s.holdLoops after).loop j = { after j with lastReported := v, stats := st } := by
  obtain ⟨st, h⟩ := foldl_offerOutput_loop ((List.finRange 16).filterMap (s.holdReport after))
    { s with loops := Vector.ofFn fun i => (after i).reported (s.holdReport after i) } j
  have hj : (s.holdLoops after).loop j = { (after j).reported (s.holdReport after j) with stats := st } := by
    rw [holdLoops_eq, h]
    simp [State.loop]
  rw [hj]
  cases s.holdReport after j <;> exact ⟨_, st, rfl⟩

/-- A loop without a report takes the entry `after` gives it (R24). -/
theorem holdLoops_loop_unreported {s : State} {after : LoopId → LoopEntry} {j : LoopId}
    (h : s.holdReport after j = none) : (s.holdLoops after).loop j = after j := by
  have hother : ∀ r ∈ (List.finRange 16).filterMap (s.holdReport after), r.loop ≠ j := fun r hr e => by
    obtain ⟨i, -, hi⟩ := List.mem_filterMap.1 hr
    have hij : i = j := (holdReport_loop hi).symm.trans e
    rw [hij, h] at hi
    cases hi
  rw [holdLoops_eq, foldl_offerOutput_loop_ne hother]
  simp [State.loop, h, LoopEntry.reported]

/-! ## One loop held for SAFE -/

/-- The entry SAFE entry leaves of a loop: an ACTIVE loop is HELD(SAFE) presenting its safe value, an ARMED loop loses
its next-release tick, and any other stays (R25). -/
def LoopEntry.heldForSafe (l : LoopEntry) : LoopEntry :=
  if l.state = .active then { l with state := .held .safe, status := .noInstance, nextRelease := none, safeSub := true }
  else if l.state = .armed then { l with nextRelease := none }
  else l

theorem heldForSafe_active {l : LoopEntry} (h : l.state = .active) : l.heldForSafe =
    { l with state := .held .safe, status := .noInstance, nextRelease := none, safeSub := true } := if_pos h

theorem heldForSafe_armed {l : LoopEntry} (h : l.state = .armed) : l.heldForSafe = { l with nextRelease := none } := by
  rw [LoopEntry.heldForSafe, if_neg (by rw [h]; nofun), if_pos h]

theorem heldForSafe_other {l : LoopEntry} (hactive : l.state ≠ .active) (harmed : l.state ≠ .armed) :
    l.heldForSafe = l := by
  rw [LoopEntry.heldForSafe, if_neg hactive, if_neg harmed]

/-- The entries SAFE entry leaves (R25). -/
def State.heldForSafe (s : State) (i : LoopId) : LoopEntry := (s.loop i).heldForSafe

/-- Only a loop that was ACTIVE can present another primary output behind SAFE entry (R24, R25). -/
theorem holdReport_heldForSafe_none {s : State} {i : LoopId} (h : (s.loop i).state ≠ .active) :
    s.holdReport s.heldForSafe i = none := by
  by_cases harmed : (s.loop i).state = .armed
  · unfold State.holdReport State.heldForSafe
    rw [heldForSafe_armed harmed]
    cases (s.loop i).definition with
    | none => rfl
    | some d => simp [LoopEntry.shown]
  · exact holdReport_unchanged (heldForSafe_other h harmed)

/-- A loop's entry to HELD is its entry replaced, and the report of a changed presented primary output (R17, R24). -/
theorem enterHeld_eq_place_tell {s t : State} {i : LoopId} {f : LoopEntry → LoopEntry} {after : LoopId → LoopEntry}
    (hloop : t.loop i = s.loop i) (htime : t.time = s.time) (hafter : after i = f (s.loop i))
    (hdef : (f (s.loop i)).definition = (s.loop i).definition) :
    t.enterHeld i f = (t.place i ((after i).reported (s.holdReport after i)) id).tell (s.holdReport after i) := by
  have hheld : t.modLoop i f = t.place i (f (s.loop i)) id := by rw [← hloop]; rfl
  unfold State.enterHeld
  dsimp only
  rw [hheld, place_loop, hloop]
  unfold State.holdReport
  rw [hafter, hdef]
  cases hd : (s.loop i).definition with
  | none =>
    have hsilent : (t.place i (f (s.loop i)) id).safeOutput i = t.place i (f (s.loop i)) id := by
      unfold State.safeOutput
      rw [place_loop, hdef, hd]
    rw [hsilent, ite_self]
    rfl
  | some d =>
    have hplaced : ((t.place i (f (s.loop i)) id).loop i).definition = some d := by
      rw [place_loop, hdef, hd]
    rw [presented_eq_shown hd, presented_eq_shown (hdef.trans hd), Option.bind_some]
    by_cases hshown : (f (s.loop i)).shown d ≠ (s.loop i).shown d
    · rw [if_pos hshown]
      by_cases hmode : d.reportMode = .silent
      · rw [safeOutput_silent hplaced hmode, if_neg fun h => h.2 hmode]
        rfl
      · rw [safeOutput_reported hplaced hmode, if_pos ⟨hshown, hmode⟩, place_loop, place_setLoop]
        change State.offerOutput _ (LoopEntry.safeReport _ i d t.time.tick) = _
        rw [htime]
        rfl
    · rw [if_neg hshown, if_neg fun h => hshown h.1]
      rfl

/-- What SAFE entry does to one loop: its entry replaced, and its report offered (R24, R25). -/
theorem holdForSafe_eq_place_tell {s t : State} {i : LoopId} (hloop : t.loop i = s.loop i) (htime : t.time = s.time) :
    t.holdForSafe i = (t.place i ((s.heldForSafe i).reported (s.holdReport s.heldForSafe i)) id).tell
      (s.holdReport s.heldForSafe i) := by
  by_cases hactive : (s.loop i).state = .active
  · have hheld : t.holdForSafe i = t.enterHeld i fun l =>
        { l with state := .held .safe, status := .noInstance, nextRelease := none, safeSub := true } := by
      rw [State.holdForSafe, hloop, hactive]
    rw [hheld]
    exact enterHeld_eq_place_tell hloop htime (heldForSafe_active hactive) rfl
  · rw [holdReport_heldForSafe_none hactive]
    by_cases harmed : (s.loop i).state = .armed
    · rw [State.holdForSafe, hloop, harmed, State.heldForSafe, heldForSafe_armed harmed, ← hloop]
      rfl
    · have hsame : t.holdForSafe i = t := by
        unfold State.holdForSafe
        rw [hloop]
        split
        · next h => exact absurd h hactive
        · next h => exact absurd h harmed
        · rfl
      rw [hsame, State.heldForSafe, heldForSafe_other hactive harmed, ← hloop]
      exact (setLoop_self t i).symm

/-- The loops held for SAFE one after another, each with its report behind it, are one change of the loop table with the
reports in ascending loop number behind it (R24, R25). -/
theorem eachLoop_holdForSafe (s : State) : s.eachLoop (fun i t => t.holdForSafe i) = s.holdLoops s.heldForSafe := by
  have hfold := foldl_place_then_tell (s := s) (ended := fun _ => id) (f := fun i t => t.holdForSafe i)
    (fun i r => holdReport_loop) (fun i t => holdForSafe_eq_place_tell) allLoops allLoops_nodup s (fun _ _ => rfl) rfl
  rw [foldl_place, allLoops_eq_finRange] at hfold
  exact hfold

/-! ## The entry -/

/-- The state SAFE entry holds the loops of: the mode, the cause, SAFE_N and SAFE_ENTERED come first (R183). -/
def State.safeTold (s : State) (c : SafeCause) : State :=
  State.offerEngine { s with ctl := { s.ctl with mode := .safe, safeCause := c, safeN := .low } } (.safeEntered c)

theorem safeEntry_eq (s : State) (c : SafeCause) :
    s.safeEntry c = { (s.safeTold c).holdLoops s.heldForSafe with cu := s.cu.flush } := rfl

theorem safeEntry_only (s : State) (c : SafeCause) : ∃ u ls, s.safeEntry c = { s with
    ctl := { s.ctl with mode := .safe, safeCause := c, safeN := .low }, rep := u, loops := ls, cu := s.cu.flush } := by
  obtain ⟨u, ls, h⟩ := holdLoops_only (s.safeTold c) s.heldForSafe
  exact ⟨u, ls, by rw [safeEntry_eq, h]; rfl⟩

theorem safeEntry_ctl (s : State) (c : SafeCause) :
    (s.safeEntry c).ctl = { s.ctl with mode := .safe, safeCause := c, safeN := .low } := by
  obtain ⟨u, ls, h⟩ := safeEntry_only s c
  rw [h]

theorem safeEntry_loop (s : State) (c : SafeCause) (i : LoopId) :
    ∃ v st, (s.safeEntry c).loop i = { (s.loop i).heldForSafe with lastReported := v, stats := st } :=
  holdLoops_loop (s.safeTold c) s.heldForSafe i

theorem safeEntry_loop_notActive {s : State} {i : LoopId} (h : (s.loop i).state ≠ .active) (c : SafeCause) :
    (s.safeEntry c).loop i = (s.loop i).heldForSafe :=
  holdLoops_loop_unreported (s := s.safeTold c) (holdReport_heldForSafe_none (s := s.safeTold c) h)

theorem safeEntry_loop_active {s : State} {i : LoopId} (h : (s.loop i).state = .active) (c : SafeCause) :
    ∃ v st, (s.safeEntry c).loop i = { s.loop i with
      state := .held .safe, status := .noInstance, nextRelease := none, safeSub := true
      lastReported := v, stats := st } := by
  obtain ⟨v, st, he⟩ := safeEntry_loop s c i
  exact ⟨v, st, by rw [he, heldForSafe_active h]⟩

/-- A claim to enter SAFE in SAFE changes nothing (R183). -/
theorem claimSafe_safe {s : State} (h : s.ctl.mode = .safe) (c : SafeCause) : s.claimSafe c = s := by
  rw [State.claimSafe, h]

/-- A claim to enter SAFE in RUN makes the entry, and a pending choice behind it (R183, R105). -/
theorem claimSafe_run {s : State} (h : s.ctl.mode = .run) (c : SafeCause) :
    s.claimSafe c = (s.safeEntry c).settleChoice := by
  have hclaim : s.claimSafe c = State.settleChoice { (s.safeTold c).eachLoop (fun i t => t.holdForSafe i) with
      cu := ((s.safeTold c).eachLoop fun i t => t.holdForSafe i).cu.flush } := by
    rw [State.claimSafe, h]
    rfl
  have hcu : ((s.safeTold c).holdLoops s.heldForSafe).cu = s.cu := by
    obtain ⟨u, ls, h⟩ := holdLoops_only (s.safeTold c) s.heldForSafe
    rw [h]
    rfl
  have hheld : (s.safeTold c).heldForSafe = s.heldForSafe := rfl
  rw [hclaim, eachLoop_holdForSafe, hheld, hcu, safeEntry_eq]

/-! ## The choice behind the entry -/

/-- The state of a unit without a waiting or running instance once a pending choice has been made (R105, R106). -/
def State.settledState (s : State) : UnitState :=
  if s.cu.state = .choice ∧ s.noneDue = true then .idle else s.cu.state

theorem settledState_stage {s : State} (h : s.cu.state = .stage) : s.settledState = .stage := by
  simp [State.settledState, h]

/-- A choice with nothing to choose from sets the unit's state alone (R106). -/
theorem settleChoice_emptied {s : State} (hdue : s.cu.due = []) (hstack : s.cu.stack = [])
    (hrunning : s.cu.state = .choice → s.cu.running = none) :
    s.settleChoice = { s with cu := { s.cu with state := s.settledState } } := by
  unfold State.settleChoice State.settledState
  split
  · next h =>
    rw [hrunning h.1]
    unfold State.chooseEmpty
    rw [hdue, hstack]
  · rfl

/-- Behind SAFE entry the choice has nothing to choose from (R115). -/
theorem settleChoice_safeEntry (s : State) (c : SafeCause) : (s.safeEntry c).settleChoice = { s.safeEntry c with
    cu := { s.cu.flush with state := (s.safeEntry c).settledState } } := by
  refine settleChoice_emptied rfl rfl fun h => ?_
  have hstate : s.cu.state ≠ .stage := ne_of_eq_of_ne h nofun
  exact if_neg hstate

/-! ## The supervision timer (R187, R188) -/

theorem safeEntry_restartSupervision (s : State) (c : SafeCause) :
    s.restartSupervision.safeEntry c = (s.safeEntry c).restartSupervision := by
  have hheld := holdLoops_ctl (s.safeTold c) s.heldForSafe (s.safeTold c).ctl.restartSupervision
  have hrestarted : s.restartSupervision.safeEntry c = { State.holdLoops
      { s.safeTold c with ctl := (s.safeTold c).ctl.restartSupervision } s.heldForSafe with cu := s.cu.flush } := rfl
  rw [hrestarted, hheld, State.restartSupervision, safeEntry_ctl, safeEntry_eq]
  rfl

/-- The restart of the supervision timer may come before or behind the claim it accompanies (R188). -/
theorem claimSafe_restartSupervision {s : State} (h : s.ctl.mode = .run) (c : SafeCause) :
    (s.claimSafe c).restartSupervision = (s.restartSupervision.safeEntry c).settleChoice := by
  rw [claimSafe_run h, settleChoice_safeEntry, settleChoice_safeEntry, safeEntry_restartSupervision]
  rfl

theorem exec_supervisionExpiry {s : State} (h : s.power = .running) : exec .supervisionExpiry s =
    .next (if s.ctl.supTimer.isSome then (s.claimSafe .supervision).restartSupervision.transmit else s) := by
  rw [exec, execSupervisionExpiry, State.whenRunning, if_pos h]

end Sys2Proof.Machine

open Sys2Proof Sys2Proof.Machine

/-- Settles O10: the claim of an expiry is the entry to SAFE, read loop by loop and block by block. -/
theorem supervisionExpiryEntersSafe : Obligations.SupervisionExpiryEntersSafe := by
  intro s hpower timer
  have hexpiry := exec_supervisionExpiry hpower
  refine ⟨fun hstopped => ?_, fun hruns hsafe => ?_, fun hruns hrun => ?_⟩
  · rw [hexpiry, hstopped]
    rfl
  · rw [hexpiry, if_pos (Option.isSome_iff_ne_none.2 hruns), claimSafe_safe hsafe]
    rfl
  · have hloops (i : LoopId) : (s.restartSupervision.safeEntry .supervision).settleChoice.loop i
        = (s.safeEntry .supervision).loop i := by
      rw [settleChoice_safeEntry, safeEntry_restartSupervision]
      rfl
    refine ⟨(s.restartSupervision.safeEntry .supervision).settleChoice, ?_, rfl, ?_, fun i hi => ?_, fun i hi => ?_,
      fun i hactive harmed => ?_, ?_⟩
    · rw [hexpiry, if_pos (Option.isSome_iff_ne_none.2 hruns), claimSafe_restartSupervision hrun]
    · obtain ⟨u, ls, h⟩ := safeEntry_only s.restartSupervision .supervision
      rw [settleChoice_safeEntry, h]
      rfl
    · obtain ⟨v, st, h⟩ := safeEntry_loop_active hi .supervision
      rw [hloops, h]
    · rw [hloops, safeEntry_loop_notActive (by rw [hi]; nofun), heldForSafe_armed hi]
    · rw [hloops, safeEntry_loop_notActive hactive, heldForSafe_other hactive harmed]
    · rw [settleChoice_safeEntry, safeEntry_restartSupervision]
      have hstage : s.cu.state = .stage → (s.safeEntry .supervision).settledState = .stage :=
        settledState_stage (s := s.safeEntry .supervision)
      exact ⟨rfl, rfl, fun h => ⟨hstage h, if_pos h⟩, fun h => if_neg h, rfl, rfl⟩

/-- Settles O8: the claim by the mode, and the two requests in an accepting state, each with an empty payload. -/
theorem enterSafeAndResetAreTaken : Obligations.EnterSafeAndResetAreTaken := by
  refine ⟨fun s c => ⟨fun h => claimSafe_safe h c, fun h => ⟨claimSafe_run h c, safeEntry_ctl s c, fun i hi => ?_⟩⟩,
    fun s tag hs => ⟨fun h => ?_, fun h => ?_⟩, fun s tag hs => exec_reset hs tag []⟩
  · obtain ⟨v, st, h⟩ := safeEntry_loop_active hi c
    rw [h]
  · have hreq : reqEnterSafe [] s = (s.claimSafe .host, [0x00]) := rfl
    rw [exec_enterSafe hs, hreq, claimSafe_safe h]
  · have hreq : reqEnterSafe [] s = (s.claimSafe .host, [0x00]) := rfl
    rw [exec_enterSafe hs, hreq, claimSafe_run h]
end

section
/-! SUPPORT. The entry to RUN, the reset values, the start-up and its hold, and the invariants at reset (R26, R82, R186,
R193, R194). -/

namespace Sys2Proof.Machine

/-! ## The entry to RUN (R26, R186) -/

theorem enterRun_eq (s : State) : s.enterRun = State.offerEngine { s with
    ctl := { s.ctl with mode := .run, safeN := .high }
    loops := Vector.ofFn fun i : LoopId => (s.loop i).enterRun s.time.tick } .runEntered := by
  rw [State.enterRun, eachLoop_modLoop]
  rfl

theorem LoopEntry.enterRun_eq (l : LoopEntry) (now : Tick) : l.enterRun now =
    if l.state = .held .safe then { l with state := .armed, missCount := 0, nextRelease := l.armingPoint now }
    else if l.state = .armed then { l with nextRelease := l.armingPoint now }
    else l := by
  unfold LoopEntry.enterRun
  split
  · next h => rw [if_pos h]
  · next h => rw [if_neg (by rw [h]; nofun), if_pos h]
  · next hheld harmed => rw [if_neg hheld, if_neg harmed]

/-- RESUME without payload, check by check (R186). -/
theorem reqResume_nil (s : State) : reqResume [] s =
    if s.link.state = .mute then refuse s .linkMuted
    else accept (if s.ctl.mode = .run then s else s.enterRun) [] := by
  unfold reqResume
  cases s.ctl.mode <;> rfl

/-! ## Reset and start-up (R189, R193, R194) -/

/-- In reset no event occurs (R193). -/
theorem whenRunning_inReset {s : State} (h : s.power = .inReset) (f : State → State) : s.whenRunning f = .next s := by
  rw [State.whenRunning, if_neg (by rw [h]; nofun)]

/-- Every row but the resets and START_UP is an event of a running part (R193). -/
theorem exec_inReset {c : Instr} {s : State} (h : s.power = .inReset) (hpower : ∀ straps, c ≠ .powerOnReset straps)
    (hpin : ∀ straps, c ≠ .pinReset straps) (hstart : ∀ low, c ≠ .startUp low) : exec c s = .next s := by
  cases hc : requestFrame c with
  | some fr => rw [exec_request hc, whenRunning_inReset h]
  | none =>
    cases c <;> simp only [requestFrame, reduceCtorEq] at hc
    case powerOnReset straps => exact absurd rfl (hpower straps)
    case pinReset straps => exact absurd rfl (hpin straps)
    case startUp low => exact absurd rfl (hstart low)
    case reportAck | goodFrame | crcError | lengthError | framingError | startUpHoldEnd | byteReceived =>
      simp only [exec, execReportAck, execGoodFrame, execCrcError, execLengthError, execFramingError,
        execStartUpHoldEnd, execByteReceived, State.whenTaking, whenRunning_inReset h]
    case gapTimerExpiry | lineBreak | rxdReturnsHigh | frameEnd =>
      simp only [exec, execGapTimerExpiry, execLineBreak, execRxdReturnsHigh, execFrameEnd, whenRunning_inReset h]
    case tick | release | stageCompletion | retryTimerExpiry | supervisionExpiry =>
      simp only [exec, execTick, execRelease, execStageCompletion, execRetryTimerExpiry, execSupervisionExpiry,
        whenRunning_inReset h]

theorem exec_startUp (low : Bool) (s : State) :
    exec (.startUp low) s = .next (if s.power = .inReset then s.startUp low else s) := rfl

theorem exec_startUpHoldEnd {s : State} (h : s.Receiving) : exec .startUpHoldEnd s = .next (
    if s.link.startUpHold then State.transmit { s with link := { s.link with startUpHold := false } } else s) :=
  exec_taking (f := fun t =>
    if t.link.startUpHold then State.transmit { t with link := { t.link with startUpHold := false } } else t) rfl h

/-! ## The invariants at reset (R193) -/

theorem memInv_of_reset {t : State} (hl : ∀ i, t.loop i = LoopEntry.reset) (hc : t.cu = .reset) : MemInv t where
  words i := by
    rw [hl i]
    exact memsFit_fresh none
  inFlight x hx := by
    rw [hc] at hx
    cases hx

end Sys2Proof.Machine

open Sys2Proof Sys2Proof.Machine

/-- Settles O3: every row but the resets and START_UP waits for a running part, and START_UP is the start-up. -/
theorem resetHoldsThePartUntilStartUp : Obligations.ResetHoldsThePartUntilStartUp := by
  refine ⟨fun c s => exec_inReset, fun low s => ⟨fun h => ?_, fun h => ?_⟩⟩
  · rw [exec_startUp, if_pos h]
    rfl
  · rw [exec_startUp, if_neg (by rw [h]; nofun)]

/-- Settles O9: RESUME check by check, and the entry to RUN as one change of the loop table. -/
theorem resumeEntersRun : Obligations.ResumeEntersRun := by
  intro s tag hs next entered
  have hreq := reqResume_nil s
  refine ⟨fun hmute => ?_, fun hlink hrun => ?_, fun hlink hsafe => ?_⟩
  · rw [exec_resume hs, hreq, if_pos hmute]
    rfl
  · rw [exec_resume hs, hreq, if_neg hlink, if_pos hrun]
    rfl
  · have hentered : (fun i : LoopId => (s.loop i).enterRun s.time.tick) = fun i => entered (s.loop i) :=
      funext fun i => (s.loop i).enterRun_eq s.time.tick
    rw [exec_resume hs, hreq, if_neg hlink, if_neg (by rw [hsafe]; nofun), enterRun_eq, hentered]
    rfl

/-- Settles O33: the end of the hold leaves the choice to the transmitter, which behind a start-up finds the BOOT
report. -/
theorem startUpHoldEndsOnAnIdleLine : Obligations.StartUpHoldEndsOnAnIdleLine := by
  refine ⟨fun s h hhold => ?_, fun s h hnone => ?_, fun s straps =>
    ⟨_, exec_startUpHoldEnd (s := commandResetState s straps false) ⟨rfl, rfl⟩, rfl, rfl, rfl, rfl⟩⟩
  · rw [exec_startUpHoldEnd h, if_pos hhold]
  · rw [exec_startUpHoldEnd h, hnone]
    rfl

/-- Settles O4: each reset is the full reset, with the cause its row records. -/
theorem fullResetGivesTheResetValues : Obligations.FullResetGivesTheResetValues := by
  have hpin (straps : Straps) (s : State) : exec (.pinReset straps) s
      = .next (resetValues s.pinCause s.ctl.powerOnFlag straps s.choices s.pending) := rfl
  refine ⟨fun straps s => rfl, fun straps s h => ?_, fun straps s h => ?_, rfl⟩
  · have hcause : s.pinCause = .pin := by simp [State.pinCause, h]
    rw [hpin, hcause]
  · have hcause : s.pinCause = if s.ctl.resetCause = .powerOn then .powerOn else .pin :=
      if_congr (and_iff_right h) rfl rfl
    rw [hpin, hcause]

/-- Settles O60: at reset every loop is EMPTY, and the unit, the store and the link are idle. -/
theorem resetStateMeetsTheInvariants : Obligations.ResetStateMeetsTheInvariants := by
  have hloop : ∀ i, State.reset.loop i = LoopEntry.reset := loop_replicate_reset rfl
  exact
    { loops := loopInv_of_reset hloop rfl rfl rfl
      coefs := coefInv_of_entries fun i => by rw [hloop i]; exact banksInv_reset
      mem := memInv_of_reset hloop rfl
      store := storeInv_fullReset State.reset .powerOn true 0
      alarms := alarmInv_fullReset State.reset .powerOn true 0
      link := linkInv_fullReset State.reset .powerOn true 0 }
end
